-- ==== Sys2Proof/Word.lean ====
section
/-! DEFINITION. The two word sizes of the core (00_scope.md R7: data 8 bits, addresses 16 bits). -/

namespace Sys2Proof

/-- A data byte, the spec's `u8`. -/
abbrev Byte := BitVec 8

/-- A 16-bit address or 16-bit register, the spec's `u16`. -/
abbrev Addr := BitVec 16

end Sys2Proof
end

