-- ==== Sys2Proof/Machine/Bits.lean ====
section
/-! DEFINITION. Byte order, extension and bit helpers of the notation (00_scope.md section 5). -/

namespace Sys2Proof.Machine

/-- `lo8(v)`, the low byte of a word. -/
def lo8 (v : Addr) : Byte := v.setWidth 8

/-- `hi8(v)`, the high byte of a word; the page of an address. -/
def hi8 (v : Addr) : Byte := (v >>> 8).setWidth 8

/-- `{h, l}`, the word with high byte `h` and low byte `l`. -/
def word (h l : Byte) : Addr := h ++ l

/-- `zext_16(b)`. -/
def zext16 (b : Byte) : Addr := b.setWidth 16

/-- `sext_16(b)`: "if bit 7 set, OR with 0xFF00" (40_addressing_modes.md R86). -/
def sext16 (b : Byte) : Addr := if b.msb then zext16 b ||| 0xFF00#16 else zext16 b

end Sys2Proof.Machine
end

