-- ==== Sys2Proof/Syntax.lean ====
section
/-! DEFINITION. The syntax: addressing modes, operand forms, mnemonics and the instructions (30_encoding.md R60 to R65). -/

namespace Sys2Proof

/-- The twelve addressing modes, one resolver each (30_encoding.md R61, 40_addressing_modes.md R80). `imp` serves both
the instructions without an operand and the accumulator forms (90_conflicts.md C1). -/
inductive Mode where
  | imp | imm | zp0 | zpx | zpy | rel | abs | abx | aby | ind | izx | izy
  deriving DecidableEq, Repr

/-- Operand bytes a resolver consumes (30_encoding.md R61). -/
def Mode.operandBytes : Mode → Nat
  | .imp => 0
  | .imm | .zp0 | .zpx | .zpy | .rel | .izx | .izy => 1
  | .abs | .abx | .aby | .ind => 2

/-- An operand form: an addressing mode with its operand byte `o` or its operand word `w` (30_encoding.md R62, R63). -/
inductive Form where
  | imp
  | imm (o : Byte)
  | zp0 (o : Byte)
  | zpx (o : Byte)
  | zpy (o : Byte)
  | rel (o : Byte)
  | abs (w : Addr)
  | abx (w : Addr)
  | aby (w : Addr)
  | ind (w : Addr)
  | izx (o : Byte)
  | izy (o : Byte)
  deriving DecidableEq, Repr

/-- The addressing mode of a form. -/
def Form.mode : Form → Mode
  | .imp => .imp
  | .imm _ => .imm
  | .zp0 _ => .zp0
  | .zpx _ => .zpx
  | .zpy _ => .zpy
  | .rel _ => .rel
  | .abs _ => .abs
  | .abx _ => .abx
  | .aby _ => .aby
  | .ind _ => .ind
  | .izx _ => .izx
  | .izy _ => .izy

/-- The semantics that may stand in a row of the opcode table: the 56 documented mnemonics and XXX (30_encoding.md R65).
The NOP aliases run the NOP semantics. -/
inductive Mnemonic where
  | adc | sbc | asl | lsr | rol | ror | cmp | cpx | cpy | bcc | bcs | beq | bne | bmi
  | bpl | bvc | bvs | pha | pla | php | plp | jsr | rts | brk | rti | lda | ldx | ldy
  | sta | stx | sty | tax | tay | txa | tya | tsx | txs | nop | and | ora | eor | bit
  | inc | dec | inx | iny | dex | dey | clc | sec | cli | sei | cld | sed | clv | jmp
  | xxx
  deriving DecidableEq, Repr

/-- The instructions. A mnemonic's rows in the opcode table differ only in the resolver (30_encoding.md R65), so a
constructor takes the operand form as an argument and stands for all of its mnemonic's rows; which forms the table has is
`Instr.wellFormed`. The undocumented rows carry their opcode byte, since several bytes share one form
(30_encoding.md R68, R69; log entry 22). -/
inductive Instr where
  /-- ADC, add with carry (R100). -/
  | adc (f : Form)
  /-- SBC, subtract with borrow (R101). -/
  | sbc (f : Form)
  /-- ASL, shift left (R110). -/
  | asl (f : Form)
  /-- LSR, shift right (R111). -/
  | lsr (f : Form)
  /-- ROL, rotate left (R112). -/
  | rol (f : Form)
  /-- ROR, rotate right (R113). -/
  | ror (f : Form)
  /-- CMP, compare with A (R120). -/
  | cmp (f : Form)
  /-- CPX, compare with X (R121). -/
  | cpx (f : Form)
  /-- CPY, compare with Y (R122). -/
  | cpy (f : Form)
  /-- BCC, branch if C clear (R131). -/
  | bcc (o : Byte)
  /-- BCS, branch if C set (R132). -/
  | bcs (o : Byte)
  /-- BEQ, branch if Z set (R133). -/
  | beq (o : Byte)
  /-- BNE, branch if Z clear (R134). -/
  | bne (o : Byte)
  /-- BMI, branch if N set (R135). -/
  | bmi (o : Byte)
  /-- BPL, branch if N clear (R136). -/
  | bpl (o : Byte)
  /-- BVC, branch if V clear (R137). -/
  | bvc (o : Byte)
  /-- BVS, branch if V set (R138). -/
  | bvs (o : Byte)
  /-- PHA, push A (R145). -/
  | pha
  /-- PLA, pull A (R146). -/
  | pla
  /-- PHP, push P (R147). -/
  | php
  /-- PLP, pull P (R148). -/
  | plp
  /-- JSR, jump to subroutine (R149). -/
  | jsr (a : Addr)
  /-- RTS, return from subroutine (R150). -/
  | rts
  /-- BRK, software interrupt (R151). -/
  | brk
  /-- RTI, return from interrupt (R152). -/
  | rti
  /-- LDA, load A (R165). -/
  | lda (f : Form)
  /-- LDX, load X (R166). -/
  | ldx (f : Form)
  /-- LDY, load Y (R167). -/
  | ldy (f : Form)
  /-- STA, store A (R168). -/
  | sta (f : Form)
  /-- STX, store X (R169). -/
  | stx (f : Form)
  /-- STY, store Y (R170). -/
  | sty (f : Form)
  /-- TAX, A to X (R171). -/
  | tax
  /-- TAY, A to Y (R172). -/
  | tay
  /-- TXA, X to A (R173). -/
  | txa
  /-- TYA, Y to A (R174). -/
  | tya
  /-- TSX, SP to X (R175). -/
  | tsx
  /-- TXS, X to SP (R176). -/
  | txs
  /-- NOP, no operation, opcode EA (R185). -/
  | nop
  /-- AND, bitwise and (R195). -/
  | and (f : Form)
  /-- ORA, bitwise or (R196). -/
  | ora (f : Form)
  /-- EOR, bitwise exclusive or (R197). -/
  | eor (f : Form)
  /-- BIT, test bits (R198). -/
  | bit (f : Form)
  /-- INC, increment memory (R199). -/
  | inc (f : Form)
  /-- DEC, decrement memory (R200). -/
  | dec (f : Form)
  /-- INX, increment X (R201). -/
  | inx
  /-- INY, increment Y (R202). -/
  | iny
  /-- DEX, decrement X (R203). -/
  | dex
  /-- DEY, decrement Y (R204). -/
  | dey
  /-- CLC, clear C (R205). -/
  | clc
  /-- SEC, set C (R206). -/
  | sec
  /-- CLI, clear I (R207). -/
  | cli
  /-- SEI, set I (R208). -/
  | sei
  /-- CLD, clear D (R209). -/
  | cld
  /-- SED, set D (R210). -/
  | sed
  /-- CLV, clear V (R211). -/
  | clv
  /-- JMP, jump (R213). -/
  | jmp (f : Form)
  /-- A NOP alias: the NOP semantics under the undocumented opcode `op` with form `f` (R186). -/
  | nopAlias (op : Byte) (f : Form)
  /-- XXX, the placeholder in the undocumented slot `op` (R188). -/
  | xxx (op : Byte)
  deriving DecidableEq, Repr

/-- The semantics an instruction runs. -/
def Instr.mnemonic : Instr → Mnemonic
  | .adc _ => .adc
  | .sbc _ => .sbc
  | .asl _ => .asl
  | .lsr _ => .lsr
  | .rol _ => .rol
  | .ror _ => .ror
  | .cmp _ => .cmp
  | .cpx _ => .cpx
  | .cpy _ => .cpy
  | .bcc _ => .bcc
  | .bcs _ => .bcs
  | .beq _ => .beq
  | .bne _ => .bne
  | .bmi _ => .bmi
  | .bpl _ => .bpl
  | .bvc _ => .bvc
  | .bvs _ => .bvs
  | .pha => .pha
  | .pla => .pla
  | .php => .php
  | .plp => .plp
  | .jsr _ => .jsr
  | .rts => .rts
  | .brk => .brk
  | .rti => .rti
  | .lda _ => .lda
  | .ldx _ => .ldx
  | .ldy _ => .ldy
  | .sta _ => .sta
  | .stx _ => .stx
  | .sty _ => .sty
  | .tax => .tax
  | .tay => .tay
  | .txa => .txa
  | .tya => .tya
  | .tsx => .tsx
  | .txs => .txs
  | .nop => .nop
  | .and _ => .and
  | .ora _ => .ora
  | .eor _ => .eor
  | .bit _ => .bit
  | .inc _ => .inc
  | .dec _ => .dec
  | .inx => .inx
  | .iny => .iny
  | .dex => .dex
  | .dey => .dey
  | .clc => .clc
  | .sec => .sec
  | .cli => .cli
  | .sei => .sei
  | .cld => .cld
  | .sed => .sed
  | .clv => .clv
  | .jmp _ => .jmp
  | .nopAlias _ _ => .nop
  | .xxx _ => .xxx

/-- The operand form of an instruction: a branch has form REL, JSR form ABS, an instruction without operand IMP. -/
def Instr.form : Instr → Form
  | .adc f => f
  | .sbc f => f
  | .asl f => f
  | .lsr f => f
  | .rol f => f
  | .ror f => f
  | .cmp f => f
  | .cpx f => f
  | .cpy f => f
  | .bcc o => .rel o
  | .bcs o => .rel o
  | .beq o => .rel o
  | .bne o => .rel o
  | .bmi o => .rel o
  | .bpl o => .rel o
  | .bvc o => .rel o
  | .bvs o => .rel o
  | .pha => .imp
  | .pla => .imp
  | .php => .imp
  | .plp => .imp
  | .jsr a => .abs a
  | .rts => .imp
  | .brk => .imp
  | .rti => .imp
  | .lda f => f
  | .ldx f => f
  | .ldy f => f
  | .sta f => f
  | .stx f => f
  | .sty f => f
  | .tax => .imp
  | .tay => .imp
  | .txa => .imp
  | .tya => .imp
  | .tsx => .imp
  | .txs => .imp
  | .nop => .imp
  | .and f => f
  | .ora f => f
  | .eor f => f
  | .bit f => f
  | .inc f => f
  | .dec f => f
  | .inx => .imp
  | .iny => .imp
  | .dex => .imp
  | .dey => .imp
  | .clc => .imp
  | .sec => .imp
  | .cli => .imp
  | .sei => .imp
  | .cld => .imp
  | .sed => .imp
  | .clv => .imp
  | .jmp f => f
  | .nopAlias _ f => f
  | .xxx _ => .imp

/-- Length in bytes: the opcode byte and the operand bytes (30_encoding.md R60, R61). -/
def Instr.length (i : Instr) : Nat := 1 + i.form.mode.operandBytes

end Sys2Proof
end

