-- ==== Sys2Proof/Machine/OpcodeTable.lean ====
section
/-! DEFINITION. The opcode table, twice, as the spec gives it twice: the 256-entry grid indexed by the opcode byte
(30_encoding.md R64, R67), which the decoder reads, and the tables by mnemonic (R66) and of the undocumented slots
(R68, R69: parameter UNDOC_TABLE of 00_scope.md R7), which the encoder and the cycle counts read. Opcode values and
base counts are the spec's decisions D1 and D2 (log entries 2 and 5). -/

namespace Sys2Proof.Machine

/-- A row of the opcode table: instruction semantics, resolver, base cycle count (30_encoding.md R64). -/
structure Row where
  mnemonic : Mnemonic
  mode : Mode
  base : Nat
  deriving DecidableEq, Repr

/-- Opcodes 0x00 to 0x0F (30_encoding.md R67). -/
def gridRow0 : List Row := [
  ⟨.brk, .imp, 7⟩, ⟨.ora, .izx, 6⟩, ⟨.xxx, .imp, 2⟩, ⟨.xxx, .imp, 8⟩,
  ⟨.nop, .zp0, 3⟩, ⟨.ora, .zp0, 3⟩, ⟨.asl, .zp0, 5⟩, ⟨.xxx, .imp, 5⟩,
  ⟨.php, .imp, 3⟩, ⟨.ora, .imm, 2⟩, ⟨.asl, .imp, 2⟩, ⟨.xxx, .imp, 2⟩,
  ⟨.nop, .abs, 4⟩, ⟨.ora, .abs, 4⟩, ⟨.asl, .abs, 6⟩, ⟨.xxx, .imp, 6⟩]

/-- Opcodes 0x10 to 0x1F (30_encoding.md R67). -/
def gridRow1 : List Row := [
  ⟨.bpl, .rel, 2⟩, ⟨.ora, .izy, 5⟩, ⟨.xxx, .imp, 2⟩, ⟨.xxx, .imp, 8⟩,
  ⟨.nop, .zpx, 4⟩, ⟨.ora, .zpx, 4⟩, ⟨.asl, .zpx, 6⟩, ⟨.xxx, .imp, 6⟩,
  ⟨.clc, .imp, 2⟩, ⟨.ora, .aby, 4⟩, ⟨.nop, .imp, 2⟩, ⟨.xxx, .imp, 7⟩,
  ⟨.nop, .abx, 4⟩, ⟨.ora, .abx, 4⟩, ⟨.asl, .abx, 7⟩, ⟨.xxx, .imp, 7⟩]

/-- Opcodes 0x20 to 0x2F (30_encoding.md R67). -/
def gridRow2 : List Row := [
  ⟨.jsr, .abs, 6⟩, ⟨.and, .izx, 6⟩, ⟨.xxx, .imp, 2⟩, ⟨.xxx, .imp, 8⟩,
  ⟨.bit, .zp0, 3⟩, ⟨.and, .zp0, 3⟩, ⟨.rol, .zp0, 5⟩, ⟨.xxx, .imp, 5⟩,
  ⟨.plp, .imp, 4⟩, ⟨.and, .imm, 2⟩, ⟨.rol, .imp, 2⟩, ⟨.xxx, .imp, 2⟩,
  ⟨.bit, .abs, 4⟩, ⟨.and, .abs, 4⟩, ⟨.rol, .abs, 6⟩, ⟨.xxx, .imp, 6⟩]

/-- Opcodes 0x30 to 0x3F (30_encoding.md R67). -/
def gridRow3 : List Row := [
  ⟨.bmi, .rel, 2⟩, ⟨.and, .izy, 5⟩, ⟨.xxx, .imp, 2⟩, ⟨.xxx, .imp, 8⟩,
  ⟨.nop, .zpx, 4⟩, ⟨.and, .zpx, 4⟩, ⟨.rol, .zpx, 6⟩, ⟨.xxx, .imp, 6⟩,
  ⟨.sec, .imp, 2⟩, ⟨.and, .aby, 4⟩, ⟨.nop, .imp, 2⟩, ⟨.xxx, .imp, 7⟩,
  ⟨.nop, .abx, 4⟩, ⟨.and, .abx, 4⟩, ⟨.rol, .abx, 7⟩, ⟨.xxx, .imp, 7⟩]

/-- Opcodes 0x40 to 0x4F (30_encoding.md R67). -/
def gridRow4 : List Row := [
  ⟨.rti, .imp, 6⟩, ⟨.eor, .izx, 6⟩, ⟨.xxx, .imp, 2⟩, ⟨.xxx, .imp, 8⟩,
  ⟨.nop, .zp0, 3⟩, ⟨.eor, .zp0, 3⟩, ⟨.lsr, .zp0, 5⟩, ⟨.xxx, .imp, 5⟩,
  ⟨.pha, .imp, 3⟩, ⟨.eor, .imm, 2⟩, ⟨.lsr, .imp, 2⟩, ⟨.xxx, .imp, 2⟩,
  ⟨.jmp, .abs, 3⟩, ⟨.eor, .abs, 4⟩, ⟨.lsr, .abs, 6⟩, ⟨.xxx, .imp, 6⟩]

/-- Opcodes 0x50 to 0x5F (30_encoding.md R67). -/
def gridRow5 : List Row := [
  ⟨.bvc, .rel, 2⟩, ⟨.eor, .izy, 5⟩, ⟨.xxx, .imp, 2⟩, ⟨.xxx, .imp, 8⟩,
  ⟨.nop, .zpx, 4⟩, ⟨.eor, .zpx, 4⟩, ⟨.lsr, .zpx, 6⟩, ⟨.xxx, .imp, 6⟩,
  ⟨.cli, .imp, 2⟩, ⟨.eor, .aby, 4⟩, ⟨.nop, .imp, 2⟩, ⟨.xxx, .imp, 7⟩,
  ⟨.nop, .abx, 4⟩, ⟨.eor, .abx, 4⟩, ⟨.lsr, .abx, 7⟩, ⟨.xxx, .imp, 7⟩]

/-- Opcodes 0x60 to 0x6F (30_encoding.md R67). -/
def gridRow6 : List Row := [
  ⟨.rts, .imp, 6⟩, ⟨.adc, .izx, 6⟩, ⟨.xxx, .imp, 2⟩, ⟨.xxx, .imp, 8⟩,
  ⟨.nop, .zp0, 3⟩, ⟨.adc, .zp0, 3⟩, ⟨.ror, .zp0, 5⟩, ⟨.xxx, .imp, 5⟩,
  ⟨.pla, .imp, 4⟩, ⟨.adc, .imm, 2⟩, ⟨.ror, .imp, 2⟩, ⟨.xxx, .imp, 2⟩,
  ⟨.jmp, .ind, 5⟩, ⟨.adc, .abs, 4⟩, ⟨.ror, .abs, 6⟩, ⟨.xxx, .imp, 6⟩]

/-- Opcodes 0x70 to 0x7F (30_encoding.md R67). -/
def gridRow7 : List Row := [
  ⟨.bvs, .rel, 2⟩, ⟨.adc, .izy, 5⟩, ⟨.xxx, .imp, 2⟩, ⟨.xxx, .imp, 8⟩,
  ⟨.nop, .zpx, 4⟩, ⟨.adc, .zpx, 4⟩, ⟨.ror, .zpx, 6⟩, ⟨.xxx, .imp, 6⟩,
  ⟨.sei, .imp, 2⟩, ⟨.adc, .aby, 4⟩, ⟨.nop, .imp, 2⟩, ⟨.xxx, .imp, 7⟩,
  ⟨.nop, .abx, 4⟩, ⟨.adc, .abx, 4⟩, ⟨.ror, .abx, 7⟩, ⟨.xxx, .imp, 7⟩]

/-- Opcodes 0x80 to 0x8F (30_encoding.md R67). -/
def gridRow8 : List Row := [
  ⟨.nop, .imm, 2⟩, ⟨.sta, .izx, 6⟩, ⟨.nop, .imm, 2⟩, ⟨.xxx, .imp, 6⟩,
  ⟨.sty, .zp0, 3⟩, ⟨.sta, .zp0, 3⟩, ⟨.stx, .zp0, 3⟩, ⟨.xxx, .imp, 3⟩,
  ⟨.dey, .imp, 2⟩, ⟨.nop, .imm, 2⟩, ⟨.txa, .imp, 2⟩, ⟨.xxx, .imp, 2⟩,
  ⟨.sty, .abs, 4⟩, ⟨.sta, .abs, 4⟩, ⟨.stx, .abs, 4⟩, ⟨.xxx, .imp, 4⟩]

/-- Opcodes 0x90 to 0x9F (30_encoding.md R67). -/
def gridRow9 : List Row := [
  ⟨.bcc, .rel, 2⟩, ⟨.sta, .izy, 6⟩, ⟨.xxx, .imp, 2⟩, ⟨.xxx, .imp, 6⟩,
  ⟨.sty, .zpx, 4⟩, ⟨.sta, .zpx, 4⟩, ⟨.stx, .zpy, 4⟩, ⟨.xxx, .imp, 4⟩,
  ⟨.tya, .imp, 2⟩, ⟨.sta, .aby, 5⟩, ⟨.txs, .imp, 2⟩, ⟨.xxx, .imp, 5⟩,
  ⟨.xxx, .imp, 5⟩, ⟨.sta, .abx, 5⟩, ⟨.xxx, .imp, 5⟩, ⟨.xxx, .imp, 5⟩]

/-- Opcodes 0xA0 to 0xAF (30_encoding.md R67). -/
def gridRowA : List Row := [
  ⟨.ldy, .imm, 2⟩, ⟨.lda, .izx, 6⟩, ⟨.ldx, .imm, 2⟩, ⟨.xxx, .imp, 6⟩,
  ⟨.ldy, .zp0, 3⟩, ⟨.lda, .zp0, 3⟩, ⟨.ldx, .zp0, 3⟩, ⟨.xxx, .imp, 3⟩,
  ⟨.tay, .imp, 2⟩, ⟨.lda, .imm, 2⟩, ⟨.tax, .imp, 2⟩, ⟨.xxx, .imp, 2⟩,
  ⟨.ldy, .abs, 4⟩, ⟨.lda, .abs, 4⟩, ⟨.ldx, .abs, 4⟩, ⟨.xxx, .imp, 4⟩]

/-- Opcodes 0xB0 to 0xBF (30_encoding.md R67). -/
def gridRowB : List Row := [
  ⟨.bcs, .rel, 2⟩, ⟨.lda, .izy, 5⟩, ⟨.xxx, .imp, 2⟩, ⟨.xxx, .imp, 5⟩,
  ⟨.ldy, .zpx, 4⟩, ⟨.lda, .zpx, 4⟩, ⟨.ldx, .zpy, 4⟩, ⟨.xxx, .imp, 4⟩,
  ⟨.clv, .imp, 2⟩, ⟨.lda, .aby, 4⟩, ⟨.tsx, .imp, 2⟩, ⟨.xxx, .imp, 4⟩,
  ⟨.ldy, .abx, 4⟩, ⟨.lda, .abx, 4⟩, ⟨.ldx, .aby, 4⟩, ⟨.xxx, .imp, 4⟩]

/-- Opcodes 0xC0 to 0xCF (30_encoding.md R67). -/
def gridRowC : List Row := [
  ⟨.cpy, .imm, 2⟩, ⟨.cmp, .izx, 6⟩, ⟨.nop, .imm, 2⟩, ⟨.xxx, .imp, 8⟩,
  ⟨.cpy, .zp0, 3⟩, ⟨.cmp, .zp0, 3⟩, ⟨.dec, .zp0, 5⟩, ⟨.xxx, .imp, 5⟩,
  ⟨.iny, .imp, 2⟩, ⟨.cmp, .imm, 2⟩, ⟨.dex, .imp, 2⟩, ⟨.xxx, .imp, 2⟩,
  ⟨.cpy, .abs, 4⟩, ⟨.cmp, .abs, 4⟩, ⟨.dec, .abs, 6⟩, ⟨.xxx, .imp, 6⟩]

/-- Opcodes 0xD0 to 0xDF (30_encoding.md R67). -/
def gridRowD : List Row := [
  ⟨.bne, .rel, 2⟩, ⟨.cmp, .izy, 5⟩, ⟨.xxx, .imp, 2⟩, ⟨.xxx, .imp, 8⟩,
  ⟨.nop, .zpx, 4⟩, ⟨.cmp, .zpx, 4⟩, ⟨.dec, .zpx, 6⟩, ⟨.xxx, .imp, 6⟩,
  ⟨.cld, .imp, 2⟩, ⟨.cmp, .aby, 4⟩, ⟨.nop, .imp, 2⟩, ⟨.xxx, .imp, 7⟩,
  ⟨.nop, .abx, 4⟩, ⟨.cmp, .abx, 4⟩, ⟨.dec, .abx, 7⟩, ⟨.xxx, .imp, 7⟩]

/-- Opcodes 0xE0 to 0xEF (30_encoding.md R67). -/
def gridRowE : List Row := [
  ⟨.cpx, .imm, 2⟩, ⟨.sbc, .izx, 6⟩, ⟨.nop, .imm, 2⟩, ⟨.xxx, .imp, 8⟩,
  ⟨.cpx, .zp0, 3⟩, ⟨.sbc, .zp0, 3⟩, ⟨.inc, .zp0, 5⟩, ⟨.xxx, .imp, 5⟩,
  ⟨.inx, .imp, 2⟩, ⟨.sbc, .imm, 2⟩, ⟨.nop, .imp, 2⟩, ⟨.xxx, .imp, 2⟩,
  ⟨.cpx, .abs, 4⟩, ⟨.sbc, .abs, 4⟩, ⟨.inc, .abs, 6⟩, ⟨.xxx, .imp, 6⟩]

/-- Opcodes 0xF0 to 0xFF (30_encoding.md R67). -/
def gridRowF : List Row := [
  ⟨.beq, .rel, 2⟩, ⟨.sbc, .izy, 5⟩, ⟨.xxx, .imp, 2⟩, ⟨.xxx, .imp, 8⟩,
  ⟨.nop, .zpx, 4⟩, ⟨.sbc, .zpx, 4⟩, ⟨.inc, .zpx, 6⟩, ⟨.xxx, .imp, 6⟩,
  ⟨.sed, .imp, 2⟩, ⟨.sbc, .aby, 4⟩, ⟨.nop, .imp, 2⟩, ⟨.xxx, .imp, 7⟩,
  ⟨.nop, .abx, 4⟩, ⟨.sbc, .abx, 4⟩, ⟨.inc, .abx, 7⟩, ⟨.xxx, .imp, 7⟩]

/-- The grid of 30_encoding.md R67: one list for each high nibble. -/
def grid : List (List Row) := [
  gridRow0, gridRow1, gridRow2, gridRow3, gridRow4, gridRow5, gridRow6, gridRow7,
  gridRow8, gridRow9, gridRowA, gridRowB, gridRowC, gridRowD, gridRowE, gridRowF]

/-- `TABLE[opcode]` (30_encoding.md R64): row by the high nibble, column by the low nibble. Both indexes are always in
range (`Laws.opcodeRow_total`), so the default is never read. -/
def opcodeRow (op : Byte) : Row :=
  ((grid.getD (op.toNat / 16) []).getD (op.toNat % 16) ⟨.xxx, .imp, 2⟩)

/-- The rows of a documented mnemonic: mode, opcode byte, base cycle count (30_encoding.md R66). -/
def documentedRows : Mnemonic → List (Mode × Byte × Nat)
  | .adc => [(.imm, 0x69#8, 2), (.zp0, 0x65#8, 3), (.zpx, 0x75#8, 4), (.abs, 0x6D#8, 4), (.abx, 0x7D#8, 4),
      (.aby, 0x79#8, 4), (.izx, 0x61#8, 6), (.izy, 0x71#8, 5)]
  | .and => [(.imm, 0x29#8, 2), (.zp0, 0x25#8, 3), (.zpx, 0x35#8, 4), (.abs, 0x2D#8, 4), (.abx, 0x3D#8, 4),
      (.aby, 0x39#8, 4), (.izx, 0x21#8, 6), (.izy, 0x31#8, 5)]
  | .asl => [(.imp, 0x0A#8, 2), (.zp0, 0x06#8, 5), (.zpx, 0x16#8, 6), (.abs, 0x0E#8, 6), (.abx, 0x1E#8, 7)]
  | .bcc => [(.rel, 0x90#8, 2)]
  | .bcs => [(.rel, 0xB0#8, 2)]
  | .beq => [(.rel, 0xF0#8, 2)]
  | .bit => [(.zp0, 0x24#8, 3), (.abs, 0x2C#8, 4)]
  | .bmi => [(.rel, 0x30#8, 2)]
  | .bne => [(.rel, 0xD0#8, 2)]
  | .bpl => [(.rel, 0x10#8, 2)]
  | .brk => [(.imp, 0x00#8, 7)]
  | .bvc => [(.rel, 0x50#8, 2)]
  | .bvs => [(.rel, 0x70#8, 2)]
  | .clc => [(.imp, 0x18#8, 2)]
  | .cld => [(.imp, 0xD8#8, 2)]
  | .cli => [(.imp, 0x58#8, 2)]
  | .clv => [(.imp, 0xB8#8, 2)]
  | .cmp => [(.imm, 0xC9#8, 2), (.zp0, 0xC5#8, 3), (.zpx, 0xD5#8, 4), (.abs, 0xCD#8, 4), (.abx, 0xDD#8, 4),
      (.aby, 0xD9#8, 4), (.izx, 0xC1#8, 6), (.izy, 0xD1#8, 5)]
  | .cpx => [(.imm, 0xE0#8, 2), (.zp0, 0xE4#8, 3), (.abs, 0xEC#8, 4)]
  | .cpy => [(.imm, 0xC0#8, 2), (.zp0, 0xC4#8, 3), (.abs, 0xCC#8, 4)]
  | .dec => [(.zp0, 0xC6#8, 5), (.zpx, 0xD6#8, 6), (.abs, 0xCE#8, 6), (.abx, 0xDE#8, 7)]
  | .dex => [(.imp, 0xCA#8, 2)]
  | .dey => [(.imp, 0x88#8, 2)]
  | .eor => [(.imm, 0x49#8, 2), (.zp0, 0x45#8, 3), (.zpx, 0x55#8, 4), (.abs, 0x4D#8, 4), (.abx, 0x5D#8, 4),
      (.aby, 0x59#8, 4), (.izx, 0x41#8, 6), (.izy, 0x51#8, 5)]
  | .inc => [(.zp0, 0xE6#8, 5), (.zpx, 0xF6#8, 6), (.abs, 0xEE#8, 6), (.abx, 0xFE#8, 7)]
  | .inx => [(.imp, 0xE8#8, 2)]
  | .iny => [(.imp, 0xC8#8, 2)]
  | .jmp => [(.abs, 0x4C#8, 3), (.ind, 0x6C#8, 5)]
  | .jsr => [(.abs, 0x20#8, 6)]
  | .lda => [(.imm, 0xA9#8, 2), (.zp0, 0xA5#8, 3), (.zpx, 0xB5#8, 4), (.abs, 0xAD#8, 4), (.abx, 0xBD#8, 4),
      (.aby, 0xB9#8, 4), (.izx, 0xA1#8, 6), (.izy, 0xB1#8, 5)]
  | .ldx => [(.imm, 0xA2#8, 2), (.zp0, 0xA6#8, 3), (.zpy, 0xB6#8, 4), (.abs, 0xAE#8, 4), (.aby, 0xBE#8, 4)]
  | .ldy => [(.imm, 0xA0#8, 2), (.zp0, 0xA4#8, 3), (.zpx, 0xB4#8, 4), (.abs, 0xAC#8, 4), (.abx, 0xBC#8, 4)]
  | .lsr => [(.imp, 0x4A#8, 2), (.zp0, 0x46#8, 5), (.zpx, 0x56#8, 6), (.abs, 0x4E#8, 6), (.abx, 0x5E#8, 7)]
  | .nop => [(.imp, 0xEA#8, 2)]
  | .ora => [(.imm, 0x09#8, 2), (.zp0, 0x05#8, 3), (.zpx, 0x15#8, 4), (.abs, 0x0D#8, 4), (.abx, 0x1D#8, 4),
      (.aby, 0x19#8, 4), (.izx, 0x01#8, 6), (.izy, 0x11#8, 5)]
  | .pha => [(.imp, 0x48#8, 3)]
  | .php => [(.imp, 0x08#8, 3)]
  | .pla => [(.imp, 0x68#8, 4)]
  | .plp => [(.imp, 0x28#8, 4)]
  | .rol => [(.imp, 0x2A#8, 2), (.zp0, 0x26#8, 5), (.zpx, 0x36#8, 6), (.abs, 0x2E#8, 6), (.abx, 0x3E#8, 7)]
  | .ror => [(.imp, 0x6A#8, 2), (.zp0, 0x66#8, 5), (.zpx, 0x76#8, 6), (.abs, 0x6E#8, 6), (.abx, 0x7E#8, 7)]
  | .rti => [(.imp, 0x40#8, 6)]
  | .rts => [(.imp, 0x60#8, 6)]
  | .sbc => [(.imm, 0xE9#8, 2), (.zp0, 0xE5#8, 3), (.zpx, 0xF5#8, 4), (.abs, 0xED#8, 4), (.abx, 0xFD#8, 4),
      (.aby, 0xF9#8, 4), (.izx, 0xE1#8, 6), (.izy, 0xF1#8, 5)]
  | .sec => [(.imp, 0x38#8, 2)]
  | .sed => [(.imp, 0xF8#8, 2)]
  | .sei => [(.imp, 0x78#8, 2)]
  | .sta => [(.zp0, 0x85#8, 3), (.zpx, 0x95#8, 4), (.abs, 0x8D#8, 4), (.abx, 0x9D#8, 5), (.aby, 0x99#8, 5),
      (.izx, 0x81#8, 6), (.izy, 0x91#8, 6)]
  | .stx => [(.zp0, 0x86#8, 3), (.zpy, 0x96#8, 4), (.abs, 0x8E#8, 4)]
  | .sty => [(.zp0, 0x84#8, 3), (.zpx, 0x94#8, 4), (.abs, 0x8C#8, 4)]
  | .tax => [(.imp, 0xAA#8, 2)]
  | .tay => [(.imp, 0xA8#8, 2)]
  | .tsx => [(.imp, 0xBA#8, 2)]
  | .txa => [(.imp, 0x8A#8, 2)]
  | .txs => [(.imp, 0x9A#8, 2)]
  | .tya => [(.imp, 0x98#8, 2)]
  | .xxx => []

/-- The NOP aliases: mode, base cycle count, opcode bytes (30_encoding.md R68). -/
def nopAliasRows : List (Mode × Nat × List Byte) := [
  (.imp, 2, [0x1A#8, 0x3A#8, 0x5A#8, 0x7A#8, 0xDA#8, 0xFA#8]),
  (.imm, 2, [0x80#8, 0x82#8, 0x89#8, 0xC2#8, 0xE2#8]),
  (.zp0, 3, [0x04#8, 0x44#8, 0x64#8]),
  (.zpx, 4, [0x14#8, 0x34#8, 0x54#8, 0x74#8, 0xD4#8, 0xF4#8]),
  (.abs, 4, [0x0C#8]),
  (.abx, 4, [0x1C#8, 0x3C#8, 0x5C#8, 0x7C#8, 0xDC#8, 0xFC#8])]

/-- The XXX slots: base cycle count, opcode bytes, all of mode IMP (30_encoding.md R69). -/
def xxxRows : List (Nat × List Byte) := [
  (2, [0x02#8, 0x0B#8, 0x12#8, 0x22#8, 0x2B#8, 0x32#8, 0x42#8, 0x4B#8, 0x52#8, 0x62#8, 0x6B#8, 0x72#8, 0x8B#8,
    0x92#8, 0xAB#8, 0xB2#8, 0xCB#8, 0xD2#8, 0xEB#8, 0xF2#8]),
  (3, [0x87#8, 0xA7#8]),
  (4, [0x8F#8, 0x97#8, 0xAF#8, 0xB7#8, 0xBB#8, 0xBF#8]),
  (5, [0x07#8, 0x27#8, 0x47#8, 0x67#8, 0x9B#8, 0x9C#8, 0x9E#8, 0x9F#8, 0xB3#8, 0xC7#8, 0xE7#8]),
  (6, [0x0F#8, 0x17#8, 0x2F#8, 0x37#8, 0x4F#8, 0x57#8, 0x6F#8, 0x77#8, 0x83#8, 0x93#8, 0xA3#8, 0xCF#8, 0xD7#8,
    0xEF#8, 0xF7#8]),
  (7, [0x1B#8, 0x1F#8, 0x3B#8, 0x3F#8, 0x5B#8, 0x5F#8, 0x7B#8, 0x7F#8, 0xDB#8, 0xDF#8, 0xFB#8, 0xFF#8]),
  (8, [0x03#8, 0x13#8, 0x23#8, 0x33#8, 0x43#8, 0x53#8, 0x63#8, 0x73#8, 0xC3#8, 0xD3#8, 0xE3#8, 0xF3#8])]

/-- The row of a documented mnemonic in a mode: its opcode byte and base count, or nothing where the table has no such
row (30_encoding.md R66). -/
def documentedRow (m : Mnemonic) (k : Mode) : Option (Byte × Nat) := (documentedRows m).lookup k

/-- Mode and base count of a NOP alias, or nothing for a byte that is none (30_encoding.md R68). -/
def nopAliasRow (op : Byte) : Option (Mode × Nat) :=
  (nopAliasRows.find? fun r => r.2.2.contains op).map fun r => (r.1, r.2.1)

/-- Base count of an XXX slot, or nothing for a byte that is none (30_encoding.md R69). -/
def xxxRow (op : Byte) : Option Nat :=
  (xxxRows.find? fun r => r.2.contains op).map fun r => r.1

/-- The opcode byte of an instruction, where the tables have its row. -/
def opcodeByte : Instr → Option Byte
  | .nopAlias op f => (nopAliasRow op).bind fun r => if r.1 = f.mode then some op else none
  | .xxx op => (xxxRow op).map fun _ => op
  | i => (documentedRow i.mnemonic i.form.mode).map fun r => r.1

/-- The base cycle count of an instruction (third column of the opcode table, 30_encoding.md R66, R68, R69). A term the
tables have no row for has none, and reads as 0; no decoder output is such a term (log entry 21). -/
def baseCycles : Instr → Nat
  | .nopAlias op _ => ((nopAliasRow op).map fun r => r.2).getD 0
  | .xxx op => (xxxRow op).getD 0
  | i => ((documentedRow i.mnemonic i.form.mode).map fun r => r.2).getD 0

/-- `instr_extra`, whether the instruction can take the page-cross cycle (50_sequencer.md R222). For the NOP semantics it
goes by the opcode byte: `NopExtra` of 47_nop_and_undocumented.md R187. -/
def instrExtra : Instr → Bool
  | .adc _ | .and _ | .cmp _ | .eor _ | .lda _ | .ldx _ | .ldy _ | .ora _ | .sbc _ => true
  | .nopAlias op _ => [0x1C#8, 0x3C#8, 0x5C#8, 0x7C#8, 0xDC#8, 0xFC#8].contains op
  | .asl _ | .lsr _ | .rol _ | .ror _ | .inc _ | .dec _ | .sta _ | .stx _ | .sty _ | .bit _ | .cpx _ | .cpy _
  | .jmp _ | .jsr _ | .bcc _ | .bcs _ | .beq _ | .bne _ | .bmi _ | .bpl _ | .bvc _ | .bvs _
  | .pha | .pla | .php | .plp | .rts | .brk | .rti | .tax | .tay | .txa | .tya | .tsx | .txs | .nop
  | .inx | .iny | .dex | .dey | .clc | .sec | .cli | .sei | .cld | .sed | .clv | .xxx _ => false

end Sys2Proof.Machine
end

