-- ==== Sys2Proof/WellFormed.lean ====
section
/-! DEFINITION. Which instruction terms the opcode table has a row for (30_encoding.md R66, R68, R69). Operand bytes are
unconstrained (R70), so the checks concern the form and the undocumented opcode byte only. -/

namespace Sys2Proof

open Machine

/-- The mnemonic has a documented row in the mode of `f` (30_encoding.md R66). -/
def formAllowed (m : Mnemonic) (f : Form) : Bool := (documentedRows m).any fun r => r.1 == f.mode

/-- `op` is a NOP alias whose row has the mode of `f` (30_encoding.md R68). -/
def aliasAllowed (op : Byte) (f : Form) : Bool :=
  nopAliasRows.any fun r => r.1 == f.mode && r.2.2.contains op

/-- `op` is an XXX slot (30_encoding.md R69). -/
def slotAllowed (op : Byte) : Bool := xxxRows.any fun r => r.2.contains op

/-- The instruction stands in the opcode table. -/
def Instr.wellFormed : Instr → Bool
  | .nopAlias op f => aliasAllowed op f
  | .xxx op => slotAllowed op
  | i => formAllowed i.mnemonic i.form

end Sys2Proof
end

