-- ==== Sys2Proof/Decode.lean ====
section
/-! DEFINITION. The decoder, total on any bytes, and after it the encoder. The decoder reads the 256-entry grid
(30_encoding.md R67), the encoder the tables by mnemonic (R66, R68, R69). -/

namespace Sys2Proof

open Machine

/-- Why a byte list holds no whole instruction. No opcode byte is rejected (30_encoding.md R70). -/
inductive DecodeError where
  /-- There is no opcode byte. -/
  | noOpcode
  /-- The opcode's row takes more operand bytes than follow. -/
  | operandMissing (opcode : Byte)
  deriving DecidableEq, Repr

/-- Operand assembly: the form of mode `k` from the bytes after the opcode, the first the low byte of a word
(30_encoding.md R62, R63). -/
def formOf (k : Mode) (b1 b2 : Byte) : Form :=
  match k with
  | .imp => .imp
  | .imm => .imm b1
  | .zp0 => .zp0 b1
  | .zpx => .zpx b1
  | .zpy => .zpy b1
  | .rel => .rel b1
  | .abs => .abs (word b2 b1)
  | .abx => .abx (word b2 b1)
  | .aby => .aby (word b2 b1)
  | .ind => .ind (word b2 b1)
  | .izx => .izx b1
  | .izy => .izy b1

/-- The instruction of a table row. Only NOP looks at the opcode byte: EA is the documented NOP, every other NOP row an
alias (30_encoding.md R65, 47_nop_and_undocumented.md R185, R186). -/
def instrOf (m : Mnemonic) (k : Mode) (op b1 b2 : Byte) : Instr :=
  match m with
  | .adc => .adc (formOf k b1 b2)
  | .sbc => .sbc (formOf k b1 b2)
  | .asl => .asl (formOf k b1 b2)
  | .lsr => .lsr (formOf k b1 b2)
  | .rol => .rol (formOf k b1 b2)
  | .ror => .ror (formOf k b1 b2)
  | .cmp => .cmp (formOf k b1 b2)
  | .cpx => .cpx (formOf k b1 b2)
  | .cpy => .cpy (formOf k b1 b2)
  | .bcc => .bcc b1
  | .bcs => .bcs b1
  | .beq => .beq b1
  | .bne => .bne b1
  | .bmi => .bmi b1
  | .bpl => .bpl b1
  | .bvc => .bvc b1
  | .bvs => .bvs b1
  | .pha => .pha
  | .pla => .pla
  | .php => .php
  | .plp => .plp
  | .jsr => .jsr (word b2 b1)
  | .rts => .rts
  | .brk => .brk
  | .rti => .rti
  | .lda => .lda (formOf k b1 b2)
  | .ldx => .ldx (formOf k b1 b2)
  | .ldy => .ldy (formOf k b1 b2)
  | .sta => .sta (formOf k b1 b2)
  | .stx => .stx (formOf k b1 b2)
  | .sty => .sty (formOf k b1 b2)
  | .tax => .tax
  | .tay => .tay
  | .txa => .txa
  | .tya => .tya
  | .tsx => .tsx
  | .txs => .txs
  | .nop => if op = 0xEA#8 then .nop else .nopAlias op (formOf k b1 b2)
  | .and => .and (formOf k b1 b2)
  | .ora => .ora (formOf k b1 b2)
  | .eor => .eor (formOf k b1 b2)
  | .bit => .bit (formOf k b1 b2)
  | .inc => .inc (formOf k b1 b2)
  | .dec => .dec (formOf k b1 b2)
  | .inx => .inx
  | .iny => .iny
  | .dex => .dex
  | .dey => .dey
  | .clc => .clc
  | .sec => .sec
  | .cli => .cli
  | .sei => .sei
  | .cld => .cld
  | .sed => .sed
  | .clv => .clv
  | .jmp => .jmp (formOf k b1 b2)
  | .xxx => .xxx op

/-- The instruction whose opcode byte is `op` and whose next bytes are `b1`, `b2` (read only where the row's mode takes
them): `row <- TABLE[opcode]` (30_encoding.md R64). -/
def decodeBytes (op b1 b2 : Byte) : Instr :=
  instrOf (opcodeRow op).mnemonic (opcodeRow op).mode op b1 b2

/-- The decoder: one instruction and the bytes after it. -/
def decode : List Byte → Except DecodeError (Instr × List Byte)
  | [] => .error .noOpcode
  | op :: rest =>
    if rest.length < (opcodeRow op).mode.operandBytes then .error (.operandMissing op)
    else .ok (decodeBytes op (rest.getD 0 0) (rest.getD 1 0), rest.drop (opcodeRow op).mode.operandBytes)

/-- Byte `k` of an instruction whose bits are `w`, numbered from the least significant bit of the opcode byte; bits from
`nbits` on are 0. -/
def tableWordByte (nbits w k : Nat) : Byte := BitVec.ofNat 8 (w % 2 ^ nbits / 256 ^ k)

/-- The instruction the decoder reads from a table word of `nbits` bits. -/
def decodeTableWord (nbits w : Nat) : Option Instr :=
  match decode [tableWordByte nbits w 0, tableWordByte nbits w 1, tableWordByte nbits w 2] with
  | .ok (i, _) => some i
  | .error _ => none

/-- The operand bytes of a form in address order, a word's low byte first (30_encoding.md R62, 20_memory.md R45). -/
def Form.bytes : Form → List Byte
  | .imp => []
  | .imm o | .zp0 o | .zpx o | .zpy o | .rel o | .izx o | .izy o => [o]
  | .abs w | .abx w | .aby w | .ind w => [lo8 w, hi8 w]

/-- The encoder: the bytes of an instruction, none for a term without a table row. -/
def encode (i : Instr) : List Byte :=
  match opcodeByte i with
  | some op => op :: i.form.bytes
  | none => []

end Sys2Proof
end

