-- ==== Sys2Proof/Config.lean ====
section
/-! DEFINITION. The constants of 00_scope.md R7 and 20_memory.md R51. The core leaves no value free: every one is
fixed by the spec, so there is no opaque constant. -/

namespace Sys2Proof.Config

/-- Number of addressable bytes (20_memory.md R40). -/
def memorySize : Nat := 65536

/-- What a byte never written since creation reads as (20_memory.md R40, R41; parameter MEM_INIT of 00_scope.md R7). -/
def unwrittenByte : Byte := 0x00#8

/-- Address of the reset vector's low byte; the high byte is at the next address (70_reset_and_hazards.md R260). -/
def resetVector : Addr := 0xFFFC#16

/-- Address of the BRK vector's low byte; the high byte is at the next address (45_stack_subroutine_interrupt.md R151). -/
def brkVector : Addr := 0xFFFE#16

/-- The stack page, the high byte of every stack address (10_state.md R16). -/
def stackPage : Byte := 0x01#8

/-- `SP` after reset (10_state.md R38). -/
def resetSp : Byte := 0xFD#8

/-- `P` after reset, the Unused flag alone (10_state.md R38, with the bit layout of R20). -/
def resetP : Byte := 0x20#8

/-- `cycles` after reset, the reset latency (70_reset_and_hazards.md R262). -/
def resetLatency : Nat := 8

end Sys2Proof.Config
end

