-- ==== Sys2Proof/Machine/State.lean ====
section
/-! DEFINITION. The state of the machine (10_state.md), its outcomes, and the state after reset. -/

namespace Sys2Proof.Machine

/-- Memory: pairs of address and byte, addresses strictly rising, no entry equal to what an unlisted address reads as
(`Memory.wf`). Keys are the `toNat` of 16-bit addresses (20_memory.md R40; log entry 14). -/
abbrev Memory := List Host.Cell

/-- Everything the spec gives the machine: 10_state.md R10 to R34 and the memory of 20_memory.md R40. -/
structure State where
  /-- `A`, the accumulator (R10). -/
  a : Byte
  /-- `X` (R11). -/
  x : Byte
  /-- `Y` (R12). -/
  y : Byte
  /-- `SP`, the offset in the stack page (R16). -/
  sp : Byte
  /-- `PC` (R13). -/
  pc : Addr
  /-- `P`, the status register: C Z I D B U V N from bit 0 up (R20). -/
  p : Byte
  /-- `addr_abs`, the effective address (R30). -/
  addrAbs : Addr
  /-- `addr_rel`, the sign-extended branch offset (R31). -/
  addrRel : Addr
  /-- `opcode`, the opcode byte last fetched (R32). -/
  opcode : Byte
  /-- `acc_mode`, the operand is the accumulator (R33). -/
  accMode : Bool
  /-- `cycles`, what remains of the instruction in flight (R34; a natural number, 92_eei_decisions.md D17). -/
  cycles : Nat
  /-- The 64 KiB memory behind the bus port (20_memory.md R40). -/
  mem : Memory
  deriving DecidableEq, Repr

/-- The faults of a step: none, so this type has no constructor and nothing raises one. "No activation ever fails"
(00_scope.md R6, 60_exceptions.md R240; log entry 23). Safe: it is the spec's own statement. -/
inductive Fault where
  deriving DecidableEq, Repr

/-- The refusals of a step. -/
inductive Refusal where
  /-- Raised only by an arm of `exec` for an instruction without a meaning. Safe. Every instruction has one, so no arm
  raises it. -/
  | notModelled (mnemonic : String)
  deriving DecidableEq, Repr

/-- The machine right after reset on memory as created, every byte 0x00, so the vector reads 0x0000
(10_state.md R38, 70_reset_and_hazards.md R260, R268). DESIGN CHOICE, unsafe: `opcode` 0x00 and `acc_mode` false, which
R38 leaves unspecified (log entry 3). -/
def State.reset : State where
  a := 0x00#8
  x := 0x00#8
  y := 0x00#8
  sp := Config.resetSp
  pc := 0x0000#16
  p := Config.resetP
  addrAbs := 0x0000#16
  addrRel := 0x0000#16
  opcode := 0x00#8
  accMode := false
  cycles := Config.resetLatency
  mem := []

end Sys2Proof.Machine
end

