-- ==== Sys2Proof/Machine/Flags.lean ====
section
/-! DEFINITION. The status register's bits (10_state.md R20 to R25) and every computation that yields flags
(41_arithmetic.md, 42_shifts_rotates.md, 43_compares.md). -/

namespace Sys2Proof.Machine

/-- The eight flags of `P` (10_state.md R20). -/
inductive Flag where
  | c | z | i | d | b | u | v | n
  deriving DecidableEq, Repr

/-- Bit number of a flag (10_state.md R20; the spec's decision D5, log entry 9). -/
def Flag.bit : Flag → Nat
  | .c => 0
  | .z => 1
  | .i => 2
  | .d => 3
  | .b => 4
  | .u => 5
  | .v => 6
  | .n => 7

/-- Mask of a flag (10_state.md R20). -/
def Flag.mask (f : Flag) : Byte := BitVec.ofNat 8 (2 ^ f.bit)

/-- A flag of a status byte. -/
def readFlag (p : Byte) (f : Flag) : Bool := p.getLsbD f.bit

/-- A status byte with one flag forced, the other seven bits as they were (10_state.md R25). -/
def writeFlag (p : Byte) (f : Flag) (v : Bool) : Byte :=
  if v then p ||| f.mask else p &&& ~~~f.mask

/-- `P.f`. -/
def State.flag (s : State) (f : Flag) : Bool := readFlag s.p f

/-- `P.f <- v`. -/
def State.setFlag (s : State) (f : Flag) (v : Bool) : State := { s with p := writeFlag s.p f v }

/-- `SetZN(v)` (10_state.md R23). -/
def State.setZN (s : State) (v : Byte) : State := (s.setFlag .z (v == 0x00#8)).setFlag .n v.msb

/-- Result, carry out and overflow of an addition. -/
structure Sum where
  value : Byte
  carry : Bool
  overflow : Bool
  deriving DecidableEq, Repr

/-- The addition of ADC: the 9-bit sum, its bit 8 the carry, overflow from the sign bits (41_arithmetic.md R100). -/
def addWithCarry (a m : Byte) (c : Bool) : Sum :=
  let t := a.toNat + m.toNat + c.toNat
  let r := BitVec.ofNat 8 t
  { value := r, carry := t.testBit 8, overflow := ((a ^^^ r) &&& (m ^^^ r)).msb }

/-- The subtraction of SBC: "the one's complement of the operand added with carry" (41_arithmetic.md R101). -/
def subtractWithBorrow (a m : Byte) (c : Bool) : Sum := addWithCarry a (m ^^^ 0xFF#8) c

/-- The flag writes of ADC and SBC: C, Z, V, N (41_arithmetic.md R100). -/
def State.setSumFlags (s : State) (r : Sum) : State :=
  ((s.setFlag .c r.carry).setFlag .v r.overflow).setZN r.value

/-- The flag writes of a compare: C when register ≥ operand unsigned, Z and N of the difference (43_compares.md R120). -/
def State.setCompareFlags (s : State) (r m : Byte) : State := (s.setFlag .c (m ≤ r)).setZN (r - m)

/-- Result and bit shifted out of a shift or rotate. -/
structure Shifted where
  value : Byte
  out : Bool
  deriving DecidableEq, Repr

/-- ASL's shift (42_shifts_rotates.md R110). -/
def shiftLeft (m : Byte) : Shifted := { value := m <<< 1, out := m.getLsbD 7 }

/-- LSR's shift (42_shifts_rotates.md R111). -/
def shiftRight (m : Byte) : Shifted := { value := m >>> 1, out := m.getLsbD 0 }

/-- ROL's rotate, the old carry `c` entering bit 0 (42_shifts_rotates.md R112). -/
def rotateLeft (m : Byte) (c : Bool) : Shifted :=
  { value := (m <<< 1) ||| (if c then 0x01#8 else 0x00#8), out := m.getLsbD 7 }

/-- ROR's rotate, the old carry `c` entering bit 7 (42_shifts_rotates.md R113). -/
def rotateRight (m : Byte) (c : Bool) : Shifted :=
  { value := (m >>> 1) ||| (if c then 0x80#8 else 0x00#8), out := m.getLsbD 0 }

/-- The flag writes of a shift: C, Z, N (42_shifts_rotates.md R110). -/
def State.setShiftFlags (s : State) (r : Shifted) : State := (s.setFlag .c r.out).setZN r.value

/-- The flag writes of BIT: Z from the AND, N and V from bits 7 and 6 of the operand
(48_logic_incdec_flags_jump.md R198). -/
def State.setBitFlags (s : State) (a m : Byte) : State :=
  ((s.setFlag .z ((a &&& m) == 0x00#8)).setFlag .n (m.getLsbD 7)).setFlag .v (m.getLsbD 6)

end Sys2Proof.Machine
end

