-- ==== Sys2Proof/Machine/Ops.lean ====
section
/-! DEFINITION. The named operations over memory and registers: the bus port (20_memory.md), Fetch8, Push, Pull
(10_state.md R14, R17, R18), and taking the BRK trap and returning from it (45_stack_subroutine_interrupt.md R151, R152). -/

namespace Sys2Proof.Machine

/-! ## Memory -/

/-- The byte listed at key `k`, or what an unlisted address reads as (20_memory.md R41). -/
def Memory.lookup : Memory → Nat → Byte
  | [], _ => Config.unwrittenByte
  | (j, v) :: rest, k => if j = k then v else Memory.lookup rest k

/-- List `v` at key `k`, in place. -/
def Memory.insert : Memory → Nat → Byte → Memory
  | [], k, v => [(k, v)]
  | (j, w) :: rest, k, v =>
    if k < j then (k, v) :: (j, w) :: rest
    else if k = j then (k, v) :: rest
    else (j, w) :: Memory.insert rest k v

/-- Unlist key `k`, wherever it stands. -/
def Memory.remove : Memory → Nat → Memory
  | [], _ => []
  | (j, w) :: rest, k => if k = j then Memory.remove rest k else (j, w) :: Memory.remove rest k

/-- `MemRead(a, 1)` (20_memory.md R41). -/
def Memory.read (m : Memory) (a : Addr) : Byte := m.lookup a.toNat

/-- `MemWrite(a, 1, v)` (20_memory.md R41), keeping the canonical form. -/
def Memory.write (m : Memory) (a : Addr) (v : Byte) : Memory :=
  if v = Config.unwrittenByte then m.remove a.toNat else m.insert a.toNat v

/-- Every key of the list is above `k`, and the keys rise strictly. -/
def Memory.risingAbove : Nat → Memory → Bool
  | _, [] => true
  | k, (j, _) :: rest => decide (k < j) && Memory.risingAbove j rest

/-- The keys rise strictly. -/
def Memory.rising : Memory → Bool
  | [] => true
  | (j, _) :: rest => Memory.risingAbove j rest

/-- The canonical form: keys strictly rising and inside the address space, no entry equal to the unwritten byte. Two
memories in it that read the same everywhere are equal. -/
def Memory.wf (m : Memory) : Bool :=
  m.rising && m.all fun e => decide (e.1 < Config.memorySize) && e.2 != Config.unwrittenByte

/-- The little-endian word whose low byte is at `a` and whose high byte is at `b` (20_memory.md R45, R52). -/
def Memory.readWord (m : Memory) (a b : Addr) : Addr := word (m.read b) (m.read a)

/-! ## The instruction stream and the stack -/

/-- `Fetch8()` (10_state.md R14). -/
def State.fetch8 (s : State) : Byte × State := (s.mem.read s.pc, { s with pc := s.pc + 1 })

/-- The stack location `0x0100 + SP` (10_state.md R16). -/
def stackAddr (sp : Byte) : Addr := word Config.stackPage sp

/-- `Push(v)`: write, then decrement (10_state.md R17; the spec's decision D10, log entry 13). -/
def State.push (s : State) (v : Byte) : State :=
  { s with mem := s.mem.write (stackAddr s.sp) v, sp := s.sp - 1 }

/-- `Pull()`: increment, then read (10_state.md R18; the spec's decision D10, log entry 13). -/
def State.pull (s : State) : Byte × State :=
  (s.mem.read (stackAddr (s.sp + 1)), { s with sp := s.sp + 1 })

/-- Push a word, high byte first (45_stack_subroutine_interrupt.md R149, R151). -/
def State.pushWord (s : State) (w : Addr) : State := (s.push (hi8 w)).push (lo8 w)

/-- Pull a word, low byte first (45_stack_subroutine_interrupt.md R150, R152). -/
def State.pullWord (s : State) : Addr × State :=
  let lo := s.pull
  let hi := lo.2.pull
  (word hi.1 lo.1, hi.2)

/-! ## The trap -/

/-- Taking the BRK trap, the core's one exception, with `PC` at the byte after the opcode: skip one byte, set I, push
`PC` high then low, push `P` with B set, clear the stored B, load `PC` from the vector
(45_stack_subroutine_interrupt.md R151, 60_exceptions.md R245). The skipped byte is the spec's decision D3 (log entry 6),
the cleared B its decision D9 (log entry 7). -/
def State.takeTrap (s : State) : State :=
  let s := { s with pc := s.pc + 1 }
  let s := s.setFlag .i true
  let s := s.pushWord s.pc
  let s := s.setFlag .b true
  let s := s.push s.p
  let s := s.setFlag .b false
  { s with pc := s.mem.readWord Config.brkVector (Config.brkVector + 1) }

/-- Returning from the trap: pull `P`, clear B and U, pull `PC`, no increment
(45_stack_subroutine_interrupt.md R152, 60_exceptions.md R246). The sequencer sets U again. -/
def State.returnFromTrap (s : State) : State :=
  let p := s.pull
  let s := ({ p.2 with p := p.1 }.setFlag .b false).setFlag .u false
  let w := s.pullWord
  { w.2 with pc := w.1 }

/-! ## The reset input -/

/-- `Reset()`, one activation of the reset input, from any state (70_reset_and_hazards.md R260, R261). `opcode` and
`acc_mode` keep what they held; memory is unchanged. -/
def State.activateReset (s : State) : State :=
  { s with
    pc := s.mem.readWord Config.resetVector (Config.resetVector + 1)
    a := 0x00#8
    x := 0x00#8
    y := 0x00#8
    sp := Config.resetSp
    p := Config.resetP
    addrAbs := 0x0000#16
    addrRel := 0x0000#16
    cycles := Config.resetLatency }

end Sys2Proof.Machine
end

