-- ==== Sys2Proof/Machine/Operands.lean ====
section
/-! DEFINITION. The twelve addressing-mode resolvers and the operand contracts (40_addressing_modes.md). Each function
takes the state in which the resolver starts: `PC` at the byte after the opcode. The operand bytes were fetched with the
instruction and stand in the form. -/

namespace Sys2Proof.Machine

/-- `addr_abs` after the resolver of `f` (40_addressing_modes.md R81 to R92). IMP and REL do not write it
(92_eei_decisions.md D22). -/
def effectiveAddress (f : Form) (s : State) : Addr :=
  match f with
  | .imp => s.addrAbs
  | .imm _ => s.pc
  | .zp0 o => zext16 o
  | .zpx o => zext16 (o + s.x)
  | .zpy o => zext16 (o + s.y)
  | .rel _ => s.addrAbs
  | .abs w => w
  | .abx w => w + zext16 s.x
  | .aby w => w + zext16 s.y
  | .ind w => s.mem.readWord w (if lo8 w = 0xFF#8 then word (hi8 w) 0x00#8 else w + 1)
  | .izx o => s.mem.readWord (zext16 (o + s.x)) (zext16 (o + s.x + 1))
  | .izy o => s.mem.readWord (zext16 o) (zext16 (o + 1)) + zext16 s.y

/-- `addr_rel` after the resolver of `f`: only REL writes it (40_addressing_modes.md R86). -/
def relativeOffset (f : Form) (s : State) : Addr :=
  match f with
  | .rel o => sext16 o
  | .imp | .imm _ | .zp0 _ | .zpx _ | .zpy _ | .abs _ | .abx _ | .aby _ | .ind _ | .izx _ | .izy _ => s.addrRel

/-- `Resolve(mode)`: `PC` past the operand bytes (30_encoding.md R61), `addr_abs`, `addr_rel`, and `acc_mode` set by IMP
alone (40_addressing_modes.md R81). -/
def resolve (f : Form) (s : State) : State :=
  { s with
    pc := s.pc + BitVec.ofNat 16 f.mode.operandBytes
    addrAbs := effectiveAddress f s
    addrRel := relativeOffset f s
    accMode := s.accMode || decide (f.mode = .imp) }

/-- `mode_extra`, what `Resolve(mode)` returns: the high byte of the address differs from that of the unindexed address,
for ABX, ABY and IZY; else 0 (40_addressing_modes.md R88, R89, R92, R93). -/
def modeExtra (f : Form) (s : State) : Bool :=
  match f with
  | .abx w | .aby w => hi8 (effectiveAddress f s) != hi8 w
  | .izy o => hi8 (effectiveAddress f s) != s.mem.read (zext16 (o + 1))
  | .imp | .imm _ | .zp0 _ | .zpx _ | .zpy _ | .rel _ | .abs _ | .ind _ | .izx _ => false

/-- `Operand()` in a resolved state (40_addressing_modes.md R94). The immediate operand is the byte fetched with the
instruction, which is the byte at `addr_abs` (log entry 20). -/
def operandByte (f : Form) (t : State) : Byte :=
  match f with
  | .imm o => o
  | .imp | .zp0 _ | .zpx _ | .zpy _ | .rel _ | .abs _ | .abx _ | .aby _ | .ind _ | .izx _ | .izy _ =>
    if t.accMode then t.a else t.mem.read t.addrAbs

/-- `WriteBack(v)` in a resolved state (40_addressing_modes.md R95). -/
def State.writeBack (t : State) (v : Byte) : State :=
  if t.accMode then { t with a := v } else { t with mem := t.mem.write t.addrAbs v }

/-- `MemWrite(addr_abs, 1, v)` in a resolved state (40_addressing_modes.md R96). -/
def State.storeByte (t : State) (v : Byte) : State := { t with mem := t.mem.write t.addrAbs v }

end Sys2Proof.Machine
end

