-- ==== Sys2Proof/Machine/Timing.lean ====
section
/-! DEFINITION. Cycle accounting (50_sequencer.md R222, R223) and the shape every instruction shares: resolver, semantics,
cycle total. -/

namespace Sys2Proof.Machine

/-- The three outcomes of an instruction. -/
abbrev Result := Host.Outcome State Fault Refusal

/-- `base + branch_penalty + (mode_extra & instr_extra)` (50_sequencer.md R223). `s` is the state before the resolver. -/
def cycleTotal (i : Instr) (penalty : Nat) (s : State) : Nat :=
  baseCycles i + penalty + (modeExtra i.form s && instrExtra i).toNat

/-- `cycles <- total` (50_sequencer.md R220). -/
def State.armCycles (t : State) (n : Nat) : State := { t with cycles := n }

/-- An instruction without branch penalty: run the resolver, then the semantics `body`, then arm the counter
(50_sequencer.md R220). -/
def perform (i : Instr) (s : State) (body : State → State) : Result :=
  .next ((body (resolve i.form s)).armCycles (cycleTotal i 0 s))

end Sys2Proof.Machine
end

