-- ==== Sys2Proof/Machine/Arithmetic.lean ====
section
/-! DEFINITION. ADC and SBC (41_arithmetic.md). The D flag plays no part (R102). -/

namespace Sys2Proof.Machine

/-- ADC (41_arithmetic.md R100). -/
def execAdc (f : Form) (s : State) : Result :=
  perform (.adc f) s fun t =>
    let r := addWithCarry t.a (operandByte f t) (t.flag .c)
    { t with a := r.value }.setSumFlags r

/-- SBC (41_arithmetic.md R101). -/
def execSbc (f : Form) (s : State) : Result :=
  perform (.sbc f) s fun t =>
    let r := subtractWithBorrow t.a (operandByte f t) (t.flag .c)
    { t with a := r.value }.setSumFlags r

end Sys2Proof.Machine
end

