-- ==== Sys2Proof/Machine/Branch.lean ====
section
/-! DEFINITION. The eight conditional branches (44_branches.md). Which flag value each tests is the spec's decision D4
(log entry 8). -/

namespace Sys2Proof.Machine

/-- The penalty `Branch(cond)` returns, in the resolved state `t`: 0 not taken, 1 taken, 2 taken to another page than that
of the next instruction (44_branches.md R130). -/
def branchPenalty (t : State) (taken : Bool) : Nat :=
  if taken then 1 + (hi8 (t.pc + t.addrRel) != hi8 t.pc).toNat else 0

/-- `PC` after `Branch(cond)` (44_branches.md R130). -/
def branchTarget (t : State) (taken : Bool) : Addr := if taken then t.pc + t.addrRel else t.pc

/-- A branch: `Resolve(REL)`, `Branch(cond)` with `cond` a flag compared with a value, and the cycle total
(44_branches.md R130, 50_sequencer.md R223). -/
def performBranch (i : Instr) (g : Flag) (v : Bool) (s : State) : Result :=
  let t := resolve i.form s
  let taken := t.flag g == v
  .next ({ t with pc := branchTarget t taken }.armCycles (cycleTotal i (branchPenalty t taken) s))

/-- BCC (44_branches.md R131). -/
def execBcc (o : Byte) (s : State) : Result := performBranch (.bcc o) .c false s

/-- BCS (44_branches.md R132). -/
def execBcs (o : Byte) (s : State) : Result := performBranch (.bcs o) .c true s

/-- BEQ (44_branches.md R133). -/
def execBeq (o : Byte) (s : State) : Result := performBranch (.beq o) .z true s

/-- BNE (44_branches.md R134). -/
def execBne (o : Byte) (s : State) : Result := performBranch (.bne o) .z false s

/-- BMI (44_branches.md R135). -/
def execBmi (o : Byte) (s : State) : Result := performBranch (.bmi o) .n true s

/-- BPL (44_branches.md R136). -/
def execBpl (o : Byte) (s : State) : Result := performBranch (.bpl o) .n false s

/-- BVC (44_branches.md R137). -/
def execBvc (o : Byte) (s : State) : Result := performBranch (.bvc o) .v false s

/-- BVS (44_branches.md R138). -/
def execBvs (o : Byte) (s : State) : Result := performBranch (.bvs o) .v true s

end Sys2Proof.Machine
end

