-- ==== Sys2Proof/Machine/Compare.lean ====
section
/-! DEFINITION. CMP, CPX and CPY (43_compares.md). -/

namespace Sys2Proof.Machine

/-- CMP (43_compares.md R120). -/
def execCmp (f : Form) (s : State) : Result :=
  perform (.cmp f) s fun t => t.setCompareFlags t.a (operandByte f t)

/-- CPX (43_compares.md R121). -/
def execCpx (f : Form) (s : State) : Result :=
  perform (.cpx f) s fun t => t.setCompareFlags t.x (operandByte f t)

/-- CPY (43_compares.md R122). -/
def execCpy (f : Form) (s : State) : Result :=
  perform (.cpy f) s fun t => t.setCompareFlags t.y (operandByte f t)

end Sys2Proof.Machine
end

