-- ==== Sys2Proof/Machine/LoadStore.lean ====
section
/-! DEFINITION. Loads, stores and register transfers (46_load_store_transfer.md). -/

namespace Sys2Proof.Machine

/-- LDA (46_load_store_transfer.md R165). -/
def execLda (f : Form) (s : State) : Result :=
  perform (.lda f) s fun t =>
    let v := operandByte f t
    { t with a := v }.setZN v

/-- LDX (46_load_store_transfer.md R166). -/
def execLdx (f : Form) (s : State) : Result :=
  perform (.ldx f) s fun t =>
    let v := operandByte f t
    { t with x := v }.setZN v

/-- LDY (46_load_store_transfer.md R167). -/
def execLdy (f : Form) (s : State) : Result :=
  perform (.ldy f) s fun t =>
    let v := operandByte f t
    { t with y := v }.setZN v

/-- STA (46_load_store_transfer.md R168). Stores write no flag (log entry 8). -/
def execSta (f : Form) (s : State) : Result := perform (.sta f) s fun t => t.storeByte t.a

/-- STX (46_load_store_transfer.md R169). Stores write no flag (log entry 8). -/
def execStx (f : Form) (s : State) : Result := perform (.stx f) s fun t => t.storeByte t.x

/-- STY (46_load_store_transfer.md R170). Stores write no flag (log entry 8). -/
def execSty (f : Form) (s : State) : Result := perform (.sty f) s fun t => t.storeByte t.y

/-- TAX (46_load_store_transfer.md R171). -/
def execTax (s : State) : Result := perform .tax s fun t => { t with x := t.a }.setZN t.a

/-- TAY (46_load_store_transfer.md R172). -/
def execTay (s : State) : Result := perform .tay s fun t => { t with y := t.a }.setZN t.a

/-- TXA (46_load_store_transfer.md R173). -/
def execTxa (s : State) : Result := perform .txa s fun t => { t with a := t.x }.setZN t.x

/-- TYA (46_load_store_transfer.md R174). -/
def execTya (s : State) : Result := perform .tya s fun t => { t with a := t.y }.setZN t.y

/-- TSX (46_load_store_transfer.md R175). -/
def execTsx (s : State) : Result := perform .tsx s fun t => { t with x := t.sp }.setZN t.sp

/-- TXS: "updates no flags" (46_load_store_transfer.md R176). -/
def execTxs (s : State) : Result := perform .txs s fun t => { t with sp := t.x }

end Sys2Proof.Machine
end

