-- ==== Sys2Proof/Machine/Logic.lean ====
section
/-! DEFINITION. The eighteen instructions of 48_logic_incdec_flags_jump.md: logic, BIT, increment and decrement, flag
writes, JMP. What each does is the MOS definition of the mnemonic, the spec's decision D4 (log entry 8). -/

namespace Sys2Proof.Machine

/-- AND (48_logic_incdec_flags_jump.md R195). -/
def execAnd (f : Form) (s : State) : Result :=
  perform (.and f) s fun t =>
    let r := t.a &&& operandByte f t
    { t with a := r }.setZN r

/-- ORA (48_logic_incdec_flags_jump.md R196). -/
def execOra (f : Form) (s : State) : Result :=
  perform (.ora f) s fun t =>
    let r := t.a ||| operandByte f t
    { t with a := r }.setZN r

/-- EOR (48_logic_incdec_flags_jump.md R197). -/
def execEor (f : Form) (s : State) : Result :=
  perform (.eor f) s fun t =>
    let r := t.a ^^^ operandByte f t
    { t with a := r }.setZN r

/-- BIT (48_logic_incdec_flags_jump.md R198). -/
def execBit (f : Form) (s : State) : Result :=
  perform (.bit f) s fun t => t.setBitFlags t.a (operandByte f t)

/-- INC (48_logic_incdec_flags_jump.md R199). -/
def execInc (f : Form) (s : State) : Result :=
  perform (.inc f) s fun t =>
    let r := operandByte f t + 1
    (t.storeByte r).setZN r

/-- DEC (48_logic_incdec_flags_jump.md R200). -/
def execDec (f : Form) (s : State) : Result :=
  perform (.dec f) s fun t =>
    let r := operandByte f t - 1
    (t.storeByte r).setZN r

/-- INX (48_logic_incdec_flags_jump.md R201). -/
def execInx (s : State) : Result := perform .inx s fun t => { t with x := t.x + 1 }.setZN (t.x + 1)

/-- INY (48_logic_incdec_flags_jump.md R202). -/
def execIny (s : State) : Result := perform .iny s fun t => { t with y := t.y + 1 }.setZN (t.y + 1)

/-- DEX (48_logic_incdec_flags_jump.md R203). -/
def execDex (s : State) : Result := perform .dex s fun t => { t with x := t.x - 1 }.setZN (t.x - 1)

/-- DEY (48_logic_incdec_flags_jump.md R204). -/
def execDey (s : State) : Result := perform .dey s fun t => { t with y := t.y - 1 }.setZN (t.y - 1)

/-- CLC (48_logic_incdec_flags_jump.md R205). -/
def execClc (s : State) : Result := perform .clc s fun t => t.setFlag .c false

/-- SEC (48_logic_incdec_flags_jump.md R206). -/
def execSec (s : State) : Result := perform .sec s fun t => t.setFlag .c true

/-- CLI (48_logic_incdec_flags_jump.md R207). -/
def execCli (s : State) : Result := perform .cli s fun t => t.setFlag .i false

/-- SEI (48_logic_incdec_flags_jump.md R208). -/
def execSei (s : State) : Result := perform .sei s fun t => t.setFlag .i true

/-- CLD (48_logic_incdec_flags_jump.md R209). -/
def execCld (s : State) : Result := perform .cld s fun t => t.setFlag .d false

/-- SED (48_logic_incdec_flags_jump.md R210). -/
def execSed (s : State) : Result := perform .sed s fun t => t.setFlag .d true

/-- CLV (48_logic_incdec_flags_jump.md R211). -/
def execClv (s : State) : Result := perform .clv s fun t => t.setFlag .v false

/-- JMP, forms ABS and IND (48_logic_incdec_flags_jump.md R213). -/
def execJmp (f : Form) (s : State) : Result := perform (.jmp f) s fun t => { t with pc := t.addrAbs }

end Sys2Proof.Machine
end

