-- ==== Sys2Proof/Machine/Nop.lean ====
section
/-! DEFINITION. NOP, the NOP aliases and XXX (47_nop_and_undocumented.md), executed: UNDOC_POLICY is `execute`
(log entry 1). -/

namespace Sys2Proof.Machine

/-- NOP, opcode EA (47_nop_and_undocumented.md R185). -/
def execNop (s : State) : Result := perform .nop s fun t => t

/-- A NOP alias: its resolver runs, nothing else (47_nop_and_undocumented.md R186). -/
def execNopAlias (op : Byte) (f : Form) (s : State) : Result := perform (.nopAlias op f) s fun t => t

/-- XXX: one byte, nothing happens but the passing of its base count (47_nop_and_undocumented.md R188). -/
def execXxx (op : Byte) (s : State) : Result := perform (.xxx op) s fun t => t

end Sys2Proof.Machine
end

