-- ==== Sys2Proof/Machine/Shift.lean ====
section
/-! DEFINITION. ASL, LSR, ROL and ROR, on the accumulator or on memory (42_shifts_rotates.md). Direction and distance are
the meaning of the MOS mnemonics (log entry 8). -/

namespace Sys2Proof.Machine

/-- ASL (42_shifts_rotates.md R110). -/
def execAsl (f : Form) (s : State) : Result :=
  perform (.asl f) s fun t =>
    let r := shiftLeft (operandByte f t)
    (t.setShiftFlags r).writeBack r.value

/-- LSR (42_shifts_rotates.md R111). -/
def execLsr (f : Form) (s : State) : Result :=
  perform (.lsr f) s fun t =>
    let r := shiftRight (operandByte f t)
    (t.setShiftFlags r).writeBack r.value

/-- ROL (42_shifts_rotates.md R112). -/
def execRol (f : Form) (s : State) : Result :=
  perform (.rol f) s fun t =>
    let r := rotateLeft (operandByte f t) (t.flag .c)
    (t.setShiftFlags r).writeBack r.value

/-- ROR (42_shifts_rotates.md R113). -/
def execRor (f : Form) (s : State) : Result :=
  perform (.ror f) s fun t =>
    let r := rotateRight (operandByte f t) (t.flag .c)
    (t.setShiftFlags r).writeBack r.value

end Sys2Proof.Machine
end

