-- ==== Sys2Proof/Machine/Stack.lean ====
section
/-! DEFINITION. PHA, PLA, PHP, PLP, JSR, RTS, BRK and RTI (45_stack_subroutine_interrupt.md). -/

namespace Sys2Proof.Machine

/-- PHA (45_stack_subroutine_interrupt.md R145). -/
def execPha (s : State) : Result := perform .pha s fun t => t.push t.a

/-- PLA (45_stack_subroutine_interrupt.md R146). -/
def execPla (s : State) : Result :=
  perform .pla s fun t =>
    let v := t.pull
    { v.2 with a := v.1 }.setZN v.1

/-- PHP: pushes `P` with B and U forced to 1, then clears the stored B and U (45_stack_subroutine_interrupt.md R147; the
clears are the spec's decision D9, log entry 7). -/
def execPhp (s : State) : Result :=
  perform .php s fun t =>
    ((t.push (t.p ||| Flag.b.mask ||| Flag.u.mask)).setFlag .b false).setFlag .u false

/-- PLP: all eight bits, then U forced to 1 (45_stack_subroutine_interrupt.md R148). -/
def execPlp (s : State) : Result :=
  perform .plp s fun t =>
    let v := t.pull
    { v.2 with p := v.1 }.setFlag .u true

/-- JSR: pushes the address of its own last byte (45_stack_subroutine_interrupt.md R149). -/
def execJsr (a : Addr) (s : State) : Result :=
  perform (.jsr a) s fun t => { t.pushWord (t.pc - 1) with pc := t.addrAbs }

/-- RTS (45_stack_subroutine_interrupt.md R150). -/
def execRts (s : State) : Result :=
  perform .rts s fun t =>
    let w := t.pullWord
    { w.2 with pc := w.1 + 1 }

/-- BRK: takes the trap (45_stack_subroutine_interrupt.md R151). -/
def execBrk (s : State) : Result := perform .brk s State.takeTrap

/-- RTI: returns from the trap (45_stack_subroutine_interrupt.md R152). -/
def execRti (s : State) : Result := perform .rti s State.returnFromTrap

end Sys2Proof.Machine
end

