-- ==== Sys2Proof/Machine/Sequencer.lean ====
section
/-! DEFINITION. The control sequencer (50_sequencer.md): `Clock()`, its parts, and the instruction-level view. -/

namespace Sys2Proof.Machine

/-- The opcode fetch of the working step: `opcode <- Fetch8()`, `P.U <- 1`, `acc_mode <- 0` (50_sequencer.md R220,
10_state.md R33). -/
def State.beginInstr (s : State) : State :=
  let r := s.fetch8
  { r.2.setFlag .u true with opcode := r.1, accMode := false }

/-- The instruction at `PC`, its bytes fetched one after the other, the address wrapping (10_state.md R13, R14). Bytes past
the instruction's length are not part of it (30_encoding.md R60) and reading them has no effect (20_memory.md R43). -/
def State.fetchInstr (s : State) : Instr :=
  let r0 := s.fetch8
  let r1 := r0.2.fetch8
  let r2 := r1.2.fetch8
  decodeBytes r0.1 r1.1 r2.1

/-- What the working step does after the semantics: `P.U <- 1` (50_sequencer.md R220, R224). -/
def State.endInstr (t : State) : State := t.setFlag .u true

/-- The decrement both states of the sequencer make (50_sequencer.md R220). -/
def State.countDown (s : State) : State := { s with cycles := s.cycles - 1 }

/-- Apply a state change to the next state of a result. -/
def onNext (r : Result) (g : State → State) : Result :=
  match r with
  | .next t => .next (g t)
  | .fault e => .fault e
  | .refused e => .refused e

/-- The working step's body: fetch, decode, execute; `cycles` holds the instruction's total afterwards
(50_sequencer.md R220). It does not look at the counter: `clock` does, and `execInstr` takes it to be 0 (log entry 24). -/
def runInstr (s : State) : Result := onNext (exec s.fetchInstr s.beginInstr) State.endInstr

/-- `Clock()`, one activation of the clock-step input (50_sequencer.md R220, R221). -/
def clock (s : State) : Result :=
  if s.cycles = 0 then onNext (runInstr s) State.countDown else .next s.countDown

/-- `ExecInstr()`: one whole instruction, leaving `cycles` 0 (50_sequencer.md R226). R226 defines it only when `cycles = 0`;
DESIGN CHOICE: this function is total, and with `cycles` above 0 it runs the instruction at `PC` whatever the counter holds
(log entry 24). -/
def execInstr (s : State) : Result := onNext (runInstr s) fun t => t.armCycles 0

/-- The cycle total `ExecInstr()` returns (50_sequencer.md R226). R226 defines it only when `cycles = 0`; DESIGN CHOICE: with
`cycles` above 0 it is the total of the instruction at `PC`, and it would be 0 for an instruction without a next state, of
which there is none (log entry 24). -/
def instrTotal (s : State) : Nat :=
  match runInstr s with
  | .next t => t.cycles
  | .fault _ | .refused _ => 0

/-- The state with the three bytes of a table word at `PC` and the sequencer Idle, so that the next clock step fetches and
runs the word's instruction. -/
def State.placeWord (s : State) (nbits w : Nat) : State :=
  { s with
    mem := ((s.mem.write s.pc (tableWordByte nbits w 0)).write (s.pc + 1) (tableWordByte nbits w 1)).write
      (s.pc + 2) (tableWordByte nbits w 2)
    cycles := 0 }

end Sys2Proof.Machine
end

