-- ==== Sys2Proof/Machine/Step.lean ====
section
/-! DEFINITION. The step of the machine: one clock step (50_sequencer.md R220; log entry 19). -/

namespace Sys2Proof.Machine

/-- One step: `Clock()`. -/
def step (s : State) : Host.Outcome State Fault Refusal := clock s

/-- `s` with the instruction word `w` where the next step fetches, and the countdown of reset or of an instruction in flight
over (log entry 4). -/
def State.withFetchWord (s : State) (nbits w : Nat) : State := s.placeWord nbits w

end Sys2Proof.Machine
end

