-- ==== Sys2Proof/Machine/Bus.lean ====
section
/-! DEFINITION. The bus trace of one step: every access the core issues on its port, in order (20_memory.md R54; the order
is the spec's decision D16, log entry 17). Memory has no side effects (R43), so nothing else in the model reads it; it is
tied to `step` by the statement that replaying the trace on the memory before a step gives the memory after it. -/

namespace Sys2Proof.Machine

/-- One bus operation with the byte it carried (00_scope.md R4). -/
inductive BusAccess where
  | read (addr : Addr) (value : Byte)
  | write (addr : Addr) (value : Byte)
  deriving DecidableEq, Repr

/-- The read of `addr` in state `s`. -/
def busRead (s : State) (addr : Addr) : BusAccess := .read addr (s.mem.read addr)

/-- The accesses of the resolver of `f`, from the state in which it starts (40_addressing_modes.md R81 to R92). IMM does not
read its operand byte (R82). -/
def resolverAccesses (f : Form) (s : State) : List BusAccess :=
  match f with
  | .imp | .imm _ => []
  | .zp0 _ | .zpx _ | .zpy _ | .rel _ => [busRead s s.pc]
  | .abs _ | .abx _ | .aby _ => [busRead s s.pc, busRead s (s.pc + 1)]
  | .ind w =>
    [busRead s s.pc, busRead s (s.pc + 1), busRead s w,
      busRead s (if lo8 w = 0xFF#8 then word (hi8 w) 0x00#8 else w + 1)]
  | .izx o => [busRead s s.pc, busRead s (zext16 (o + s.x)), busRead s (zext16 (o + s.x + 1))]
  | .izy o => [busRead s s.pc, busRead s (zext16 o), busRead s (zext16 (o + 1))]

/-- The access of `Operand()` in a resolved state: one read, or none in accumulator mode (40_addressing_modes.md R94). -/
def operandAccesses (t : State) : List BusAccess := if t.accMode then [] else [busRead t t.addrAbs]

/-- The access of `WriteBack(v)` in a resolved state (40_addressing_modes.md R95). -/
def writeBackAccesses (t : State) (v : Byte) : List BusAccess := if t.accMode then [] else [.write t.addrAbs v]

/-- The accesses of an instruction's semantics in its resolved state, as the instruction's rule lists them. -/
def semanticAccesses (i : Instr) (t : State) : List BusAccess :=
  match i with
  | .adc _ | .sbc _ | .cmp _ | .cpx _ | .cpy _ | .lda _ | .ldx _ | .ldy _ | .and _ | .ora _ | .eor _ | .bit _ => operandAccesses t
  | .sta _ => [.write t.addrAbs t.a]
  | .stx _ => [.write t.addrAbs t.x]
  | .sty _ => [.write t.addrAbs t.y]
  | .asl f => operandAccesses t ++ writeBackAccesses t (shiftLeft (operandByte f t)).value
  | .lsr f => operandAccesses t ++ writeBackAccesses t (shiftRight (operandByte f t)).value
  | .rol f => operandAccesses t ++ writeBackAccesses t (rotateLeft (operandByte f t) (t.flag .c)).value
  | .ror f => operandAccesses t ++ writeBackAccesses t (rotateRight (operandByte f t) (t.flag .c)).value
  | .inc f => operandAccesses t ++ [.write t.addrAbs (operandByte f t + 1)]
  | .dec f => operandAccesses t ++ [.write t.addrAbs (operandByte f t - 1)]
  | .pha => [.write (stackAddr t.sp) t.a]
  | .pla | .plp => [busRead t (stackAddr (t.sp + 1))]
  | .php => [.write (stackAddr t.sp) (t.p ||| Flag.b.mask ||| Flag.u.mask)]
  | .jsr _ => [.write (stackAddr t.sp) (hi8 (t.pc - 1)), .write (stackAddr (t.sp - 1)) (lo8 (t.pc - 1))]
  | .rts => [busRead t (stackAddr (t.sp + 1)), busRead t (stackAddr (t.sp + 1 + 1))]
  | .brk =>
    [.write (stackAddr t.sp) (hi8 (t.pc + 1)), .write (stackAddr (t.sp - 1)) (lo8 (t.pc + 1)),
      .write (stackAddr (t.sp - 1 - 1)) (writeFlag (writeFlag t.p .i true) .b true),
      busRead t.takeTrap Config.brkVector, busRead t.takeTrap (Config.brkVector + 1)]
  | .rti =>
    [busRead t (stackAddr (t.sp + 1)), busRead t (stackAddr (t.sp + 1 + 1)),
      busRead t (stackAddr (t.sp + 1 + 1 + 1))]
  | .bcc _ | .bcs _ | .beq _ | .bne _ | .bmi _ | .bpl _ | .bvc _ | .bvs _
  | .tax | .tay | .txa | .tya | .tsx | .txs | .nop | .nopAlias _ _ | .xxx _
  | .inx | .iny | .dex | .dey | .clc | .sec | .cli | .sei | .cld | .sed | .clv | .jmp _ => []

/-- The bus trace of one clock step: the opcode read, the resolver's accesses, the semantics' accesses; silent in a counting
step (20_memory.md R54, 50_sequencer.md R221, R225). -/
def busTrace (s : State) : List BusAccess :=
  if s.cycles = 0 then
    busRead s s.pc ::
      (resolverAccesses s.fetchInstr.form s.beginInstr ++
        semanticAccesses s.fetchInstr (resolve s.fetchInstr.form s.beginInstr))
  else []

/-- The bus trace of one activation of reset: the two vector reads (70_reset_and_hazards.md R260). -/
def resetTrace (s : State) : List BusAccess :=
  [busRead s Config.resetVector, busRead s (Config.resetVector + 1)]

/-- Run a trace against a memory: a write stores; a read must find the byte it carried. -/
def replay (m : Memory) : List BusAccess → Option Memory
  | [] => some m
  | .read addr value :: rest => if m.read addr = value then replay m rest else none
  | .write addr value :: rest => replay (m.write addr value) rest

end Sys2Proof.Machine
end

