-- ==== Sys2Proof/Machine/External.lean ====
section
/-! DEFINITION. What the host may do to the machine between steps (00_scope.md R4, R5). Writing a core register directly is
a test-harness facility, not a port (92_eei_decisions.md D21), and has no action here. -/

namespace Sys2Proof.Machine

/-- An action of the host, each atomic (00_scope.md R4). -/
inductive Action where
  /-- Activate the clock step. -/
  | clock
  /-- Activate reset, at any step boundary (70_reset_and_hazards.md R261). -/
  | reset
  /-- Write a memory byte through the interconnect (20_memory.md R41). -/
  | write (addr : Addr) (value : Byte)
  /-- Read a memory byte through the interconnect: no side effect (20_memory.md R43). -/
  | read (addr : Addr)
  deriving DecidableEq, Repr

/-- The byte a host read returns (20_memory.md R41). -/
def State.hostRead (s : State) (addr : Addr) : Byte := s.mem.read addr

/-- A host write (20_memory.md R41). -/
def State.hostWrite (s : State) (addr : Addr) (value : Byte) : State := { s with mem := s.mem.write addr value }

/-- One action. -/
def act (s : State) : Action → Result
  | .clock => step s
  | .reset => .next s.activateReset
  | .write addr value => .next (s.hostWrite addr value)
  | .read _ => .next s

/-- A sequence of actions, in order. The boot order of 70_reset_and_hazards.md R264 is writes, one reset, then clocks. -/
def runActions (s : State) : List Action → Result
  | [] => .next s
  | x :: rest =>
    match act s x with
    | .next t => runActions t rest
    | .fault e => .fault e
    | .refused e => .refused e

end Sys2Proof.Machine
end

