-- ==== Sys2Proof/Safety.lean ====
section
/-! DEFINITION. The terms claims use: registers by name, what an instruction leaves unchanged, the invariant of a step
boundary, runs and their end. -/

namespace Sys2Proof

open Machine

/-- The 8-bit registers a program names (10_state.md R10, R11, R12, R16). -/
inductive Reg where
  | a | x | y | sp
  deriving DecidableEq, Repr

/-- The value of a register. -/
def Machine.State.reg (s : State) : Reg → Byte
  | .a => s.a
  | .x => s.x
  | .y => s.y
  | .sp => s.sp

/-- From `s`, in which the resolver of `i` starts, to `t`: every register but those of `regs`, every flag but those of
`flags`, and every memory byte but those at `stored` is unchanged; `opcode` is unchanged; `addr_abs`, `addr_rel` and
`acc_mode` are as the resolver of the instruction's form leaves them; `cycles` is the instruction's total with the given
branch penalty. Of `PC` it says nothing. -/
structure Frame (i : Instr) (regs : List Reg) (flags : List Flag) (stored : List Addr) (penalty : Nat)
    (s t : State) : Prop where
  regs_kept : ∀ r, r ∉ regs → t.reg r = s.reg r
  flags_kept : ∀ g, g ∉ flags → t.flag g = s.flag g
  memory_kept : ∀ addr, addr ∉ stored → t.mem.read addr = s.mem.read addr
  opcode_kept : t.opcode = s.opcode
  addr_abs : t.addrAbs = effectiveAddress i.form s
  addr_rel : t.addrRel = relativeOffset i.form s
  acc_mode : t.accMode = (s.accMode || decide (i.form = .imp))
  cycles_armed : t.cycles = cycleTotal i penalty s

/-- `PC` after an instruction that does not redirect it: past the operand bytes (10_state.md R15; `PC` is past the opcode
byte in `s`). -/
def nextPc (i : Instr) (s : State) : Addr := s.pc + BitVec.ofNat 16 i.form.mode.operandBytes

/-- The operand byte of an instruction of form `f` whose resolver starts in `s` (40_addressing_modes.md R94). -/
def operandOf (f : Form) (s : State) : Byte := operandByte f (resolve f s)

/-- The operand is the accumulator: the accumulator forms of the shifts (40_addressing_modes.md R81, R94). -/
def onAccumulator (f : Form) (s : State) : Bool := (resolve f s).accMode

/-- The flags a mnemonic writes (10_state.md R24), with U where the instruction's own rule names it
(45_stack_subroutine_interrupt.md R147, R148, R152). -/
def flagsWritten : Mnemonic → List Flag
  | .adc | .sbc => [.n, .v, .z, .c]
  | .asl | .lsr | .rol | .ror | .cmp | .cpx | .cpy => [.n, .z, .c]
  | .bit => [.n, .v, .z]
  | .and | .ora | .eor | .inc | .dec | .inx | .iny | .dex | .dey => [.n, .z]
  | .lda | .ldx | .ldy | .tax | .tay | .txa | .tya | .tsx | .pla => [.n, .z]
  | .clc | .sec => [.c]
  | .cli | .sei => [.i]
  | .cld | .sed => [.d]
  | .clv => [.v]
  | .php => [.b, .u]
  | .plp | .rti => [.n, .v, .b, .d, .i, .z, .c, .u]
  | .brk => [.b, .i]
  | .sta | .stx | .sty | .txs | .pha | .jmp | .jsr | .rts | .nop | .xxx
  | .bcc | .bcs | .beq | .bne | .bmi | .bpl | .bvc | .bvs => []

/-- Where an instruction at the opcode address `s.pc` sends `PC` if it redirects it: the table of 10_state.md R15. -/
def redirect (i : Instr) (s : State) : Option Addr :=
  match i with
  | .bcc o => if s.flag .c = false then some (s.pc + 2 + sext16 o) else none
  | .bcs o => if s.flag .c = true then some (s.pc + 2 + sext16 o) else none
  | .bne o => if s.flag .z = false then some (s.pc + 2 + sext16 o) else none
  | .beq o => if s.flag .z = true then some (s.pc + 2 + sext16 o) else none
  | .bpl o => if s.flag .n = false then some (s.pc + 2 + sext16 o) else none
  | .bmi o => if s.flag .n = true then some (s.pc + 2 + sext16 o) else none
  | .bvc o => if s.flag .v = false then some (s.pc + 2 + sext16 o) else none
  | .bvs o => if s.flag .v = true then some (s.pc + 2 + sext16 o) else none
  | .jmp f => some (effectiveAddress f s)
  | .jsr a => some a
  | .rts => some (word (s.mem.read (stackAddr (s.sp + 2))) (s.mem.read (stackAddr (s.sp + 1))) + 1)
  | .brk => some (word (s.mem.read 0xFFFF#16) (s.mem.read 0xFFFE#16))
  | .rti => some (word (s.mem.read (stackAddr (s.sp + 3))) (s.mem.read (stackAddr (s.sp + 2))))
  | .adc _ | .sbc _ | .asl _ | .lsr _ | .rol _ | .ror _ | .cmp _ | .cpx _ | .cpy _ | .pha | .pla | .php | .plp
  | .lda _ | .ldx _ | .ldy _ | .sta _ | .stx _ | .sty _ | .tax | .tay | .txa | .tya | .tsx | .txs | .nop
  | .and _ | .ora _ | .eor _ | .bit _ | .inc _ | .dec _ | .inx | .iny | .dex | .dey | .clc | .sec | .cli | .sei
  | .cld | .sed | .clv | .nopAlias _ _ | .xxx _ => none

/-- Store bytes one after the other. -/
def writeAll (m : Memory) (cells : List (Addr × Byte)) : Memory := cells.foldl (fun m c => m.write c.1 c.2) m

/-- The bytes an instruction stores, each with its address, in order: the stores (46_load_store_transfer.md R168 to R170), the
read-modify-writes (42_shifts_rotates.md R110 to R113, 48_logic_incdec_flags_jump.md) and the pushes
(45_stack_subroutine_interrupt.md). `s` is the state in which the resolver of `i` starts. -/
def storedBytes (i : Instr) (s : State) : List (Addr × Byte) :=
  match i with
  | .sta f => [(effectiveAddress f s, s.a)]
  | .stx f => [(effectiveAddress f s, s.x)]
  | .sty f => [(effectiveAddress f s, s.y)]
  | .inc f => [(effectiveAddress f s, BitVec.ofNat 8 ((operandOf f s).toNat + 1))]
  | .dec f => [(effectiveAddress f s, BitVec.ofNat 8 ((operandOf f s).toNat + 255))]
  | .asl f => if onAccumulator f s then [] else [(effectiveAddress f s, BitVec.ofNat 8 (2 * (operandOf f s).toNat))]
  | .lsr f => if onAccumulator f s then [] else [(effectiveAddress f s, BitVec.ofNat 8 ((operandOf f s).toNat / 2))]
  | .rol f =>
    if onAccumulator f s then []
    else [(effectiveAddress f s, BitVec.ofNat 8 (2 * (operandOf f s).toNat + (s.flag .c).toNat))]
  | .ror f =>
    if onAccumulator f s then []
    else [(effectiveAddress f s, BitVec.ofNat 8 ((operandOf f s).toNat / 2 + 128 * (s.flag .c).toNat))]
  | .pha => [(stackAddr s.sp, s.a)]
  | .php => [(stackAddr s.sp, writeFlag (writeFlag s.p .b true) .u true)]
  | .jsr _ => [(stackAddr s.sp, hi8 (s.pc + 1)), (stackAddr (s.sp - 1), lo8 (s.pc + 1))]
  | .brk =>
    [(stackAddr s.sp, hi8 (s.pc + 1)), (stackAddr (s.sp - 1), lo8 (s.pc + 1)),
      (stackAddr (s.sp - 2), writeFlag (writeFlag s.p .i true) .b true)]
  | .adc _ | .sbc _ | .cmp _ | .cpx _ | .cpy _ | .bcc _ | .bcs _ | .beq _ | .bne _ | .bmi _ | .bpl _ | .bvc _ | .bvs _
  | .pla | .plp | .rts | .rti | .lda _ | .ldx _ | .ldy _ | .tax | .tay | .txa | .tya | .tsx | .txs | .nop
  | .nopAlias _ _ | .xxx _ | .and _ | .ora _ | .eor _ | .bit _ | .inx | .iny | .dex | .dey
  | .clc | .sec | .cli | .sei | .cld | .sed | .clv | .jmp _ => []

/-- An instruction executed `n` times in a row, stopping at a fault or refusal. -/
def execTimes : Nat → Instr → State → Result
  | 0, _, s => .next s
  | n + 1, i, s =>
    match exec i s with
    | .next t => execTimes n i t
    | .fault e => .fault e
    | .refused e => .refused e

/-- Z and N of `t` are those of the byte `v` (10_state.md R23). -/
def ZNOf (v : Byte) (t : State) : Prop := t.flag .z = decide (v = 0x00#8) ∧ t.flag .n = v.msb

/-- The invariant of every step boundary after the first reset (50_sequencer.md R228), with the canonical form of the
memory. -/
abbrev Machine.State.Inv (s : State) : Prop :=
  s.flag .u = true ∧ s.cycles ≤ 8 ∧ (s.addrRel.toNat ≤ 0x007F ∨ 0xFF80 ≤ s.addrRel.toNat) ∧ s.mem.wf = true

/-- A run of `k` clock steps from `s` is safe: it ends in a next state, which meets the invariant. -/
def SafeRun (k : Nat) (s : State) : Prop := ∃ t, core.run k s = .next t ∧ t.Inv

/-- Parameter END_OF_RUN (00_scope.md R7): when a run is over is the user's predicate; the core never stops by itself. -/
abbrev EndOfRun := State → Bool

/-- The customary end of a run: Idle at a given address (00_scope.md R7, 92_eei_decisions.md D15). -/
def idleAt (addr : Addr) : EndOfRun := fun s => s.cycles == 0 && s.pc == addr

/-- Clock until the end of the run, at most `fuel` steps; nothing if it has not ended by then. -/
def runUntil (ended : EndOfRun) : Nat → State → Option State
  | 0, s => if ended s then some s else none
  | fuel + 1, s =>
    if ended s then some s
    else
      match step s with
      | .next t => runUntil ended fuel t
      | .fault _ | .refused _ => none

/-- Equal but for the stored Break flag (10_state.md R22). -/
def SameButBreak (s t : State) : Prop := { s with p := writeFlag s.p .b false } = { t with p := writeFlag t.p .b false }

/-- Equal but for the transient decode state: `addr_abs`, `addr_rel`, `opcode`, `acc_mode` (10_state.md R36). -/
def SameButTransient (s t : State) : Prop :=
  { s with addrAbs := t.addrAbs, addrRel := t.addrRel, opcode := t.opcode, accMode := t.accMode } = t

end Sys2Proof
end

