-- ==== Sys2Proof/Certificates/Slice0/Obligations.lean ====
section
/-! DEFINITION. The statements for the provers. In a statement about `exec i s`, `s` is the state in which the resolver of
`i` starts: the opcode byte has been fetched, so `PC` is the address of the opcode byte plus one.

What rests on a decision of the spec everywhere below, and not on a rule of its source: the cycle count that `Frame` names
(base counts D1 and D2, page-cross list D8: log entries 2, 5, 12); the stack slot of a push or a pull (D10: log entry 13);
the bit number of a flag in a status byte (D5: log entry 9). A docstring names what else a statement rests on. -/

open Sys2Proof Sys2Proof.Machine

/-! ## Encoding -/

/-- One word of each addressing mode, its bytes as 30_encoding.md writes them in the examples of its section 5, decodes to
the instruction the example names. The opcode map is the spec's decision D1 (log entry 5). -/
def Obligations.SpecWordsDecode : Prop :=
  decode [0x18#8] = .ok (.clc, []) ∧
  decode [0x0A#8] = .ok (.asl .imp, []) ∧
  decode [0xA9#8, 0x10#8] = .ok (.lda (.imm 0x10#8), []) ∧
  decode [0xA5#8, 0x10#8] = .ok (.lda (.zp0 0x10#8), []) ∧
  decode [0xB5#8, 0x10#8] = .ok (.lda (.zpx 0x10#8), []) ∧
  decode [0xB6#8, 0x10#8] = .ok (.ldx (.zpy 0x10#8), []) ∧
  decode [0xAD#8, 0x34#8, 0x12#8] = .ok (.lda (.abs 0x1234#16), []) ∧
  decode [0xBD#8, 0x34#8, 0x12#8] = .ok (.lda (.abx 0x1234#16), []) ∧
  decode [0xB9#8, 0x34#8, 0x12#8] = .ok (.lda (.aby 0x1234#16), []) ∧
  decode [0x6C#8, 0x34#8, 0x12#8] = .ok (.jmp (.ind 0x1234#16), []) ∧
  decode [0xA1#8, 0x10#8] = .ok (.lda (.izx 0x10#8), []) ∧
  decode [0xB1#8, 0x10#8] = .ok (.lda (.izy 0x10#8), []) ∧
  decode [0xD0#8, 0xF9#8] = .ok (.bne 0xF9#8, [])

/-- Decoding the encoding of any well-formed instruction gives the instruction back, with every operand, and leaves the
bytes after it. -/
def Obligations.DecodeOfEncode : Prop :=
  ∀ (i : Instr) (rest : List Byte), i.wellFormed = true → decode (encode i ++ rest) = .ok (i, rest)

/-- The other direction, and the agreement of the two tables: whatever the three bytes, the decoder gives a well-formed
instruction of the row the opcode byte selects, with that row's base count, and encoding it gives the bytes of its length
back. So all 256 opcode bytes have an entry, no two bytes share one instruction, and no operand value is excluded
(30_encoding.md, sections 1 and 3; the byte values are decisions D1 and D2, log entries 2 and 5). -/
def Obligations.EncodeOfDecode : Prop :=
  ∀ op b1 b2 : Byte,
    (decodeBytes op b1 b2).wellFormed = true ∧
    (decodeBytes op b1 b2).mnemonic = (opcodeRow op).mnemonic ∧
    (decodeBytes op b1 b2).form.mode = (opcodeRow op).mode ∧
    baseCycles (decodeBytes op b1 b2) = (opcodeRow op).base ∧
    encode (decodeBytes op b1 b2) = [op, b1, b2].take (decodeBytes op b1 b2).length

/-! ## The sequencer -/

/-- Every activation of the machine answers a next state, from every state: no step faults, none is refused. -/
def Obligations.NoActivationFails : Prop :=
  ∀ (s : State) (x : Action), ∃ t, act s x = .next t

/-- A step in Idle runs the decoded instruction: with the bytes at `PC` decoding to `i`, the step is `exec i` from the state
in which the opcode byte has been fetched (`opcode` and `PC` written, U set, `acc_mode` cleared), with U set again and the
counter decremented afterwards. That `acc_mode` is cleared here is the spec's decision D6 (log entry 10). -/
def Obligations.IdleStepRunsDecodedInstruction : Prop :=
  ∀ (s : State) (i : Instr) (rest : List Byte), s.cycles = 0 →
    decode [s.mem.read s.pc, s.mem.read (s.pc + 1), s.mem.read (s.pc + 2)] = .ok (i, rest) →
    ∃ t,
      exec i { s with opcode := s.mem.read s.pc, pc := s.pc + 1, p := writeFlag s.p .u true, accMode := false } = .next t ∧
      step s = .next { t with p := writeFlag t.p .u true, cycles := t.cycles - 1 }

/-- The two states of the sequencer. Mid-instruction: the counter goes down by one, nothing else changes and the bus is
silent, and the new state is Idle exactly when it reaches 0. Idle: the step leaves the machine Mid-instruction with the
instruction's total less one, and that total is at least 2. From Idle the total is exactly the number of steps to the next
Idle. -/
def Obligations.SequencerStates : Prop :=
  (∀ s : State, 0 < s.cycles → step s = .next { s with cycles := s.cycles - 1 } ∧ busTrace s = []) ∧
  (∀ s : State, s.cycles = 0 →
    2 ≤ instrTotal s ∧ (∃ t, step s = .next t ∧ t.cycles = instrTotal s - 1) ∧
    (∃ t, core.run (instrTotal s) s = .next t ∧ t.cycles = 0) ∧
    ∀ k, 0 < k → k < instrTotal s → ∃ t, core.run k s = .next t ∧ t.cycles ≠ 0) ∧
  (∀ s : State, s.activateReset.cycles = 8)

/-- The instruction-level view: `ExecInstr()` and as many clock steps as the total it returns end in the same state, with the
counter at 0, and no shorter run of at least one step ends with the counter at 0. -/
def Obligations.InstructionViewAgreesWithClock : Prop :=
  ∀ s : State, s.cycles = 0 →
    ∃ t, execInstr s = .next t ∧ t.cycles = 0 ∧ core.run (instrTotal s) s = .next t ∧
      ∀ k, 0 < k → k < instrTotal s → ∃ u, core.run k s = .next u ∧ u.cycles ≠ 0

/-- The state after reset meets the invariant, and is what one activation of reset makes of any state on memory as created,
but for `opcode` and `acc_mode`, which reset does not name (the model's choice at reset, log entry 3). -/
def Obligations.InvariantHoldsAtReset : Prop :=
  State.reset.Inv ∧
  ∀ s : State, { s with mem := [] }.activateReset = { State.reset with opcode := s.opcode, accMode := s.accMode }

/-- Every step keeps the invariant of a step boundary: U is 1, the counter is at most 8, `addr_rel` is a sign-extended byte,
the memory is in canonical form. -/
def Obligations.StepKeepsInvariant : Prop :=
  ∀ s t : State, s.Inv → step s = .next t → t.Inv

/-- Every host action keeps the invariant, and reset establishes it from any state at all whose memory is in canonical form,
in the middle of an instruction as well. That the host may act there is the spec's decision D13 (log entry 15). -/
def Obligations.HostActionsKeepInvariant : Prop :=
  (∀ (s t : State) (x : Action), s.Inv → act s x = .next t → t.Inv) ∧
  (∀ s : State, s.mem.wf = true → s.activateReset.Inv)

/-- The cycle total: the base count of the row; for a branch 1 when taken and 2 when taken to another page than that of the
next instruction; and 1 more when the resolver signals a page cross (`PageCrossSignal`) and the instruction is ADC, AND, CMP,
EOR, LDA, LDX, LDY, ORA, SBC or one of the six ABX NOP aliases, no other. It is from 2 to 8, at most 7 for anything but an XXX
slot, so the counter is from 1 to 7 after a working step. The base counts are the spec's decisions D1 and D2 (log entries 2
and 5), the list its decision D8 (log entry 12), the branch conditions its decision D4 (log entry 8). -/
def Obligations.CycleTotalBounds : Prop :=
  ∀ s : State, s.cycles = 0 →
    instrTotal s = (opcodeRow (s.mem.read s.pc)).base +
      (if s.fetchInstr.form.mode = .rel then
        ((redirect s.fetchInstr s).map fun a => if a.toNat / 256 = (s.pc + 2).toNat / 256 then 1 else 2).getD 0
      else 0) +
      (if modeExtra s.fetchInstr.form s.beginInstr = true ∧
          (s.fetchInstr.mnemonic ∈ [.adc, .and, .cmp, .eor, .lda, .ldx, .ldy, .ora, .sbc] ∨
            s.mem.read s.pc ∈ [0x1C#8, 0x3C#8, 0x5C#8, 0x7C#8, 0xDC#8, 0xFC#8]) then 1
      else 0) ∧
    2 ≤ instrTotal s ∧ instrTotal s ≤ 8 ∧ (s.fetchInstr.mnemonic ≠ .xxx → instrTotal s ≤ 7) ∧
    ∃ t, step s = .next t ∧ 1 ≤ t.cycles ∧ t.cycles ≤ 7

/-- U is forced to 1 after the opcode fetch, before the resolver, and again after the semantics; no resolver writes `P`. -/
def Obligations.UnusedFlagForcedTwice : Prop :=
  (∀ s : State, s.beginInstr.flag .u = true) ∧
  (∀ (s : State) (f : Form), (resolve f s).p = s.p) ∧
  (∀ s : State, s.cycles = 0 → ∃ t u, exec s.fetchInstr s.beginInstr = .next t ∧ step s = .next u ∧
    u.flag .u = true ∧ ∀ g, g ≠ .u → u.flag g = t.flag g)

/-- The bus trace is what the step does to memory: replayed on the memory before a step it reads at each read the byte the
memory then holds, and leaves the memory after the step. The order of the accesses is the spec's decision D16
(log entry 17). -/
def Obligations.BusTraceReplaysStep : Prop :=
  ∀ s : State, ∃ t, step s = .next t ∧ replay s.mem (busTrace s) = some t.mem

/-- Whatever an instruction stores, the very next fetch sees. Memory at the next Idle is memory before with exactly the bytes
of the instruction stored (`storedBytes`: the stores, the read-modify-writes, the pushes), and the next instruction is decoded
from it, wherever `PC` then is. So STA, STX or STY in any form, aimed at byte `k` of the following instruction, opcode or
operand, replaces that byte of it and no other. The number of steps is the cycle total, whatever the base counts are. What the
instructions store and where they send `PC` rests on the spec's decisions D4, D10 and D11 and, for the address BRK pushes, D3
(log entries 8, 13 and 6). -/
def Obligations.StoreSeenByNextFetch : Prop :=
  (∀ s : State, s.cycles = 0 →
    ∃ t, core.run (instrTotal s) s = .next t ∧ t.cycles = 0 ∧
      t.mem = writeAll s.mem (storedBytes s.fetchInstr s.beginInstr) ∧
      t.pc = (redirect s.fetchInstr s).getD (s.pc + BitVec.ofNat 16 s.fetchInstr.length) ∧
      t.fetchInstr = decodeBytes (t.mem.read t.pc) (t.mem.read (t.pc + 1)) (t.mem.read (t.pc + 2))) ∧
  (∀ (s : State) (f : Form) (k : Nat), s.cycles = 0 → k < 3 →
    ∀ e ∈ [(Instr.sta f, Reg.a), (.stx f, .x), (.sty f, .y)], s.fetchInstr = e.1 →
      effectiveAddress f s.beginInstr = s.pc + BitVec.ofNat 16 (e.1.length + k) →
      ∃ t, core.run (instrTotal s) s = .next t ∧ t.cycles = 0 ∧ t.pc = s.pc + BitVec.ofNat 16 e.1.length ∧
        t.fetchInstr = decodeBytes
          (if k = 0 then s.reg e.2 else s.mem.read t.pc)
          (if k = 1 then s.reg e.2 else s.mem.read (t.pc + 1))
          (if k = 2 then s.reg e.2 else s.mem.read (t.pc + 2)))

/-! ## Memory, stack and flags -/

/-- A read returns the byte last written to its address, by the core or by the host; other addresses keep theirs; a byte
never written reads 0x00. -/
def Obligations.MemoryReadAfterWrite : Prop :=
  (∀ (m : Memory) (a b : Addr) (v : Byte), (m.write a v).read b = if b = a then v else m.read b) ∧
  (∀ a : Addr, Memory.read [] a = 0x00#8) ∧
  (∀ (s : State) (a : Addr) (v : Byte), s.hostRead a = s.mem.read a ∧ (s.hostWrite a v).mem = s.mem.write a v)

/-- Memories in canonical form that read the same are the same memory, so writing the byte an address already holds changes
nothing. -/
def Obligations.CanonicalMemoriesDetermined : Prop :=
  (∀ m n : Memory, m.wf = true → n.wf = true → (∀ a : Addr, m.read a = n.read a) → m = n) ∧
  (∀ (m : Memory) (a : Addr), m.wf = true → m.write a (m.read a) = m)

/-- The stack: its location is 0x0100 + SP, a push writes there and then decrements SP, a pull increments SP and then reads,
a pull after a push returns the byte and restores SP. Among the instructions, TXS loads SP, TSX copies it out, eight step it
by pushes and pulls, and every other leaves it alone. The order inside push and pull is the spec's decision D10
(log entry 13). -/
def Obligations.StackPointerDiscipline : Prop :=
  (∀ sp : Byte, (stackAddr sp).toNat = 0x0100 + sp.toNat) ∧
  (∀ (s : State) (v : Byte),
    s.push v = { s with mem := s.mem.write (stackAddr s.sp) v, sp := s.sp - 1 } ∧
    s.pull = (s.mem.read (stackAddr (s.sp + 1)), { s with sp := s.sp + 1 }) ∧
    (s.push v).pull.1 = v ∧ (s.push v).pull.2.sp = s.sp) ∧
  (∀ (i : Instr) (s : State), ∃ t, exec i s = .next t ∧
    (i = .txs → t.sp = s.x) ∧
    (i = .tsx → t.x = s.sp) ∧
    (i = .pha ∨ i = .php → t.sp = s.sp - 1) ∧
    (i = .pla ∨ i = .plp → t.sp = s.sp + 1) ∧
    (i.mnemonic = .jsr → t.sp = s.sp - 2) ∧
    (i = .rts → t.sp = s.sp + 2) ∧
    (i = .brk → t.sp = s.sp - 3) ∧
    (i = .rti → t.sp = s.sp + 3) ∧
    (i.mnemonic ∉ [.txs, .pha, .php, .pla, .plp, .jsr, .rts, .brk, .rti] → t.sp = s.sp))

/-- The stack pointer wraps within page 1: a push at SP 0x00 writes 0x0100 and leaves SP 0xFF, a pull at SP 0xFF leaves SP
0x00 and reads 0x0100; a two-byte push at SP 0x00 goes on at 0x01FF, a two-byte pull at SP 0xFE reads 0x01FF and goes on at
0x0100; nothing else marks the wrap. The three-byte trap at SP 0x01 and the return from it at SP 0xFE wrap in the same way. The
order inside push and pull is the spec's decision D10, the byte order of a pulled word and of JSR's push its decision D11
(log entry 13), the address the trap saves its decision D3 (log entry 6). -/
def Obligations.StackWrapsInPageOne : Prop :=
  (∀ (s : State) (v : Byte), { s with sp := 0x00#8 }.push v =
    { s with mem := s.mem.write 0x0100#16 v, sp := 0xFF#8 }) ∧
  (∀ s : State, { s with sp := 0xFF#8 }.pull = (s.mem.read 0x0100#16, { s with sp := 0x00#8 })) ∧
  (∀ (s : State) (w : Addr), { s with sp := 0x00#8 }.pushWord w =
    { s with mem := (s.mem.write 0x0100#16 (hi8 w)).write 0x01FF#16 (lo8 w), sp := 0xFE#8 }) ∧
  (∀ s : State, { s with sp := 0xFE#8 }.pullWord =
    (word (s.mem.read 0x0100#16) (s.mem.read 0x01FF#16), { s with sp := 0x00#8 })) ∧
  (∀ s : State, { s with sp := 0x01#8 }.takeTrap.sp = 0xFE#8 ∧
    { s with sp := 0x01#8 }.takeTrap.mem =
      ((s.mem.write 0x0101#16 (hi8 (s.pc + 1))).write 0x0100#16 (lo8 (s.pc + 1))).write 0x01FF#16
        (writeFlag (writeFlag s.p .i true) .b true)) ∧
  (∀ s : State, { s with sp := 0xFE#8 }.returnFromTrap.sp = 0x01#8 ∧
    { s with sp := 0xFE#8 }.returnFromTrap.pc = word (s.mem.read 0x0101#16) (s.mem.read 0x0100#16) ∧
    ∀ g, g ≠ .b → g ≠ .u → { s with sp := 0xFE#8 }.returnFromTrap.flag g = readFlag (s.mem.read 0x01FF#16) g)

/-- `SetZN(v)` makes Z the test for 0 and N bit 7 and touches no other flag; a forced flag write changes that bit only and
done twice is done once. -/
def Obligations.FlagWritesTouchTheirBits : Prop :=
  (∀ (s : State) (v : Byte), ZNOf v (s.setZN v) ∧ (v.msb = v.getLsbD 7) ∧
    ∀ g, g ≠ .z → g ≠ .n → (s.setZN v).flag g = s.flag g) ∧
  (∀ (p : Byte) (g : Flag) (v : Bool) (j : Nat), j < 8 →
    (writeFlag p g v).getLsbD j = if j = g.bit then v else p.getLsbD j) ∧
  (∀ (p : Byte) (g : Flag) (v : Bool), writeFlag (writeFlag p g v) g v = writeFlag p g v)

/-- The matrix of 10_state.md: whatever the instruction, it completes and leaves every flag it is not listed for. Rows of
instructions the document does not name are the spec's decision D4 (log entry 8). -/
def Obligations.OnlyListedFlagsWritten : Prop :=
  ∀ (i : Instr) (s : State), ∃ t, exec i s = .next t ∧ ∀ g, g ∉ flagsWritten i.mnemonic → t.flag g = s.flag g

/-- The stored B flag influences nothing: two states equal but for it step to states equal but for it. -/
def Obligations.StoredBreakInfluencesNothing : Prop :=
  ∀ s u : State, SameButBreak s u → ∃ t v, step s = .next t ∧ step u = .next v ∧ SameButBreak t v

/-- The transient decode state carries nothing from one step to the next: two states equal but for `addr_abs`, `addr_rel`,
`opcode` and `acc_mode` step to states equal but for them. That `acc_mode` carries nothing over is the spec's decision D6,
which clears it at every opcode fetch (log entry 10); that no row reads a transient register its mode does not write is read
off the opcode map, decisions D1 and D2 (log entries 5 and 2). -/
def Obligations.TransientStateInfluencesNothing : Prop :=
  ∀ s u : State, SameButTransient s u → ∃ t v, step s = .next t ∧ step u = .next v ∧ SameButTransient t v

/-! ## Addressing modes -/

/-- ZP0, ZPX and ZPY: the address is the operand byte, plus the unsigned index, modulo 256; one operand byte; no page-cross
signal. ZPY stands in documented rows of LDX and STX only; which rows there are is the spec's decision D1 (log entry 5). -/
def Obligations.ZeroPageModes : Prop :=
  (∀ (o : Byte) (s : State),
    (resolve (.zp0 o) s).addrAbs.toNat = o.toNat ∧
    (resolve (.zpx o) s).addrAbs.toNat = (o.toNat + s.x.toNat) % 256 ∧
    (resolve (.zpy o) s).addrAbs.toNat = (o.toNat + s.y.toNat) % 256 ∧
    ∀ f ∈ [Form.zp0 o, .zpx o, .zpy o], (resolve f s).pc = s.pc + 1 ∧ modeExtra f s = false) ∧
  (∀ b1 b2 : Byte, formOf .zp0 b1 b2 = .zp0 b1 ∧ formOf .zpx b1 b2 = .zpx b1 ∧ formOf .zpy b1 b2 = .zpy b1) ∧
  (∀ m : Mnemonic, (documentedRow m .zpy).isSome = true → m = .ldx ∨ m = .stx)

/-- ABS, ABX and ABY: the operand word is little-endian, the address is the word plus the unsigned index modulo 65536, and
the signal is 1 exactly when the high byte of the sum differs from that of the word. -/
def Obligations.AbsoluteModes : Prop :=
  (∀ l h : Byte, ∃ w : Addr, w.toNat = h.toNat * 256 + l.toNat ∧
    formOf .abs l h = .abs w ∧ formOf .abx l h = .abx w ∧ formOf .aby l h = .aby w) ∧
  (∀ (w : Addr) (s : State),
    (resolve (.abs w) s).addrAbs = w ∧ modeExtra (.abs w) s = false ∧
    (resolve (.abx w) s).addrAbs.toNat = (w.toNat + s.x.toNat) % 65536 ∧
    (modeExtra (.abx w) s = true ↔ (resolve (.abx w) s).addrAbs.toNat / 256 ≠ w.toNat / 256) ∧
    (resolve (.aby w) s).addrAbs.toNat = (w.toNat + s.y.toNat) % 65536 ∧
    (modeExtra (.aby w) s = true ↔ (resolve (.aby w) s).addrAbs.toNat / 256 ≠ w.toNat / 256) ∧
    ∀ f ∈ [Form.abs w, .abx w, .aby w], (resolve f s).pc = s.pc + 2)

/-- IND: the target word is read through the pointer, its high byte from the start of the same page when the pointer's low
byte is 0xFF, from the next address otherwise. Of all 256 opcode bytes only 6C, JMP, has mode IND: the map of the documented bytes is the spec's decision D1, that
of the others its decision D2 (log entries 5 and 2). -/
def Obligations.IndirectPageWrap : Prop :=
  (∀ (plo phi : Byte) (s : State), ∃ ptr : Addr, ptr.toNat = phi.toNat * 256 + plo.toNat ∧
    formOf .ind plo phi = .ind ptr ∧
    (resolve (.ind ptr) s).addrAbs.toNat =
      (s.mem.read (if plo.toNat = 255 then BitVec.ofNat 16 (phi.toNat * 256) else ptr + 1)).toNat * 256 +
        (s.mem.read ptr).toNat ∧
    (resolve (.ind ptr) s).pc = s.pc + 2 ∧ modeExtra (.ind ptr) s = false) ∧
  (∀ (m : Mnemonic) (op : Byte) (n : Nat), documentedRow m .ind = some (op, n) → m = .jmp ∧ op = 0x6C#8) ∧
  (∀ op : Byte, (opcodeRow op).mode = .ind ↔ op = 0x6C#8) ∧
  (∀ op b1 b2 : Byte, (decodeBytes op b1 b2).form.mode = .ind ↔ op = 0x6C#8) ∧
  (∀ b1 b2 : Byte, (decodeBytes 0x6C#8 b1 b2).mnemonic = .jmp)

/-- IZX and IZY: the pointer's two bytes are read inside page 0, before an index is added (IZY) or after (IZX); IZX signals
nothing, IZY signals a changed high byte. That IZY's pointer wraps is the spec's decision D7 (log entry 11). -/
def Obligations.ZeroPagePointers : Prop :=
  (∀ (o : Byte) (s : State),
    (resolve (.izx o) s).addrAbs.toNat =
      (s.mem.read (BitVec.ofNat 16 ((o.toNat + s.x.toNat + 1) % 256))).toNat * 256 +
        (s.mem.read (BitVec.ofNat 16 ((o.toNat + s.x.toNat) % 256))).toNat ∧
    (resolve (.izx o) s).pc = s.pc + 1 ∧ modeExtra (.izx o) s = false) ∧
  (∀ (o : Byte) (s : State), ∃ base : Nat,
    base = (s.mem.read (BitVec.ofNat 16 ((o.toNat + 1) % 256))).toNat * 256 +
      (s.mem.read (BitVec.ofNat 16 o.toNat)).toNat ∧
    (resolve (.izy o) s).addrAbs.toNat = (base + s.y.toNat) % 65536 ∧
    (modeExtra (.izy o) s = true ↔ (resolve (.izy o) s).addrAbs.toNat / 256 ≠ base / 256) ∧
    (resolve (.izy o) s).pc = s.pc + 1)

/-- IMP sets `acc_mode` and nothing else; IMM records the address of its operand byte and skips it; REL sign-extends its
operand byte, from -128 to 127, into `addr_rel`. That IMP and REL leave the other transient registers alone is the spec's
decision D22 (log entry 16). -/
def Obligations.ImpliedImmediateRelative : Prop :=
  (∀ s : State, resolve .imp s = { s with accMode := true } ∧ modeExtra .imp s = false) ∧
  (∀ (o : Byte) (s : State), resolve (.imm o) s = { s with addrAbs := s.pc, pc := s.pc + 1 } ∧
    modeExtra (.imm o) s = false) ∧
  (∀ (o : Byte) (s : State), ∃ d : Addr, d.toInt = o.toInt ∧
    resolve (.rel o) s = { s with addrRel := d, pc := s.pc + 1 } ∧ modeExtra (.rel o) s = false)

/-- The page-cross signal is 1 exactly when the low byte of the unindexed address plus the index leaves the page, for ABX,
ABY and IZY (whose unindexed address is its pointer's content), and 0 always for the other nine resolvers. -/
def Obligations.PageCrossSignal : Prop :=
  ∀ s : State,
    (∀ w : Addr, modeExtra (.abx w) s = decide (256 ≤ w.toNat % 256 + s.x.toNat)) ∧
    (∀ w : Addr, modeExtra (.aby w) s = decide (256 ≤ w.toNat % 256 + s.y.toNat)) ∧
    (∀ o : Byte, modeExtra (.izy o) s = decide (256 ≤ (s.mem.read (BitVec.ofNat 16 o.toNat)).toNat + s.y.toNat)) ∧
    (∀ f : Form, f.mode ∉ [.abx, .aby, .izy] → modeExtra f s = false)

/-- How `PC` advances. A resolver moves it past exactly the operand bytes of its form and changes no register, flag or memory
byte, nor `opcode` or `cycles`. A whole step moves it past the instruction's bytes, unless the instruction is a taken branch,
JMP, JSR, RTS, BRK or RTI, which send it where the table of 10_state.md says. The branch conditions, the byte orders and BRK's
vector word rest on the spec's decisions D4, D10 and D11 (log entries 8 and 13). -/
def Obligations.ProgramCounterAdvance : Prop :=
  (∀ (f : Form) (s : State),
    (resolve f s).pc.toNat = (s.pc.toNat + f.bytes.length) % 65536 ∧
    { resolve f s with pc := s.pc, addrAbs := s.addrAbs, addrRel := s.addrRel, accMode := s.accMode } = s) ∧
  (∀ s : State, s.cycles = 0 → ∃ t, step s = .next t ∧
    t.pc = (redirect s.fetchInstr s).getD (s.pc + BitVec.ofNat 16 s.fetchInstr.length))

/-- The operand contract in a working step: with accumulator mode set the operand is the accumulator, otherwise the byte at
the resolved address, by one bus read; accumulator mode is the mode IMP, and no instruction that fetches an operand has an
IMP row but the four shifts. The write-back contract: to the accumulator in accumulator mode, else to the byte at the
resolved address. That accumulator mode is the mode IMP, whatever ran before, is the spec's decision D6 (log entry 10); the one
bus read is its decision D16 (log entry 17); the operand of an immediate form is the byte fetched with the instruction, here
stated to be the byte at the resolved address (log entry 20); which mnemonics have an IMP row is the documented map, its
decision D1 (log entry 5). -/
def Obligations.OperandAndWriteBackContracts : Prop :=
  (∀ (s t : State), t = resolve s.fetchInstr.form s.beginInstr →
    operandByte s.fetchInstr.form t = (if t.accMode then t.a else t.mem.read t.addrAbs) ∧
    t.accMode = decide (s.fetchInstr.form = .imp)) ∧
  (∀ t : State, operandAccesses t = if t.accMode then [] else [.read t.addrAbs (t.mem.read t.addrAbs)]) ∧
  (∀ m ∈ [Mnemonic.adc, .sbc, .and, .ora, .eor, .cmp, .cpx, .cpy, .bit, .lda, .ldx, .ldy, .inc, .dec],
    documentedRow m .imp = none) ∧
  (∀ (t : State) (v : Byte),
    { t with accMode := true }.writeBack v = { t with accMode := true, a := v } ∧
    { t with accMode := false }.writeBack v = { t with accMode := false, mem := t.mem.write t.addrAbs v })

/-! ## Reset -/

/-- One activation of reset, from any state and in the middle of an instruction as well: the registers it names take their
values, `PC` the little-endian word at 0xFFFC, memory and the two elements it does not name keep theirs, and a second
activation changes nothing. That reset may come in the middle of an instruction is the spec's decision D13 (log entry 15). That
`opcode` and `acc_mode` keep theirs is the model's choice: 10_state.md R38 calls both unspecified, decision D22 (log
entry 3). -/
def Obligations.ResetActivation : Prop :=
  ∀ s : State, ∃ t, act s .reset = .next t ∧
    t.a = 0x00#8 ∧ t.x = 0x00#8 ∧ t.y = 0x00#8 ∧ t.sp = 0xFD#8 ∧
    (∀ g, t.flag g = decide (g = .u)) ∧ t.p = 0x20#8 ∧
    t.pc.toNat = (s.mem.read 0xFFFD#16).toNat * 256 + (s.mem.read 0xFFFC#16).toNat ∧
    t.addrAbs = 0x0000#16 ∧ t.addrRel = 0x0000#16 ∧ t.cycles = 8 ∧
    t.mem = s.mem ∧ t.opcode = s.opcode ∧ t.accMode = s.accMode ∧
    act t .reset = .next t

/-- After reset eight clock steps only count down and touch no memory, and the ninth fetches at the vector address. -/
def Obligations.ResetLatency : Prop :=
  ∀ s : State,
    (∀ k, k ≤ 8 → core.run k s.activateReset = .next { s.activateReset with cycles := 8 - k }) ∧
    (∀ k, k < 8 → busTrace { s.activateReset with cycles := 8 - k } = []) ∧
    (∃ rest, busTrace { s.activateReset with cycles := 0 } =
      .read (word (s.mem.read 0xFFFD#16) (s.mem.read 0xFFFC#16))
        (s.mem.read (word (s.mem.read 0xFFFD#16) (s.mem.read 0xFFFC#16))) :: rest)

/-- The boot order: whatever the host writes first, one reset after the writes and eight clock steps leave the core Idle at the
address the written vector names, with memory as written and the invariant met. That the host may write and reset in the middle of an instruction is the spec's
decision D13 (log entry 15). -/
def Obligations.BootOrder : Prop :=
  ∀ (s : State) (writes : List (Addr × Byte)), s.mem.wf = true →
    ∃ t, runActions s (writes.map (fun w => Action.write w.1 w.2) ++ Action.reset :: List.replicate 8 Action.clock) = .next t ∧
      t.cycles = 0 ∧ t.mem = writes.foldl (fun m w => m.write w.1 w.2) s.mem ∧
      t.pc = word (t.mem.read 0xFFFD#16) (t.mem.read 0xFFFC#16) ∧ t.Inv

/-- The core never stops: from every state that meets the invariant a run of any length ends in a next state, which meets it
too. -/
def Obligations.EveryRunIsSafe : Prop := ∀ (k : Nat) (s : State), s.Inv → SafeRun k s

/-- A run ends by the user's predicate alone: clocking until it holds ends in the first state of the run where it holds. That
the end of a run is a predicate of the user is the spec's open parameter END_OF_RUN (log entry 18). -/
def Obligations.RunEndsAtFirstEnd : Prop :=
  ∀ (ended : EndOfRun) (fuel : Nat) (s t : State), runUntil ended fuel s = some t ↔
    ∃ k, k ≤ fuel ∧ core.run k s = .next t ∧ ended t = true ∧
      ∀ (j : Nat) (u : State), j < k → core.run j s = .next u → ended u = false

/-! ## Instructions: results, completion and frame -/

/-- ADC: the 9-bit sum of A, operand and carry; C its bit 8; V when the signed sum leaves -128 to 127; Z and N of the result.
Writes A, C, Z, V, N and nothing else. -/
def Obligations.AdcResult : Prop :=
  ∀ (f : Form) (s : State), ∃ t, exec (.adc f) s = .next t ∧
    t.a.toNat = (s.a.toNat + (operandOf f s).toNat + (s.flag .c).toNat) % 256 ∧
    t.flag .c = decide (256 ≤ s.a.toNat + (operandOf f s).toNat + (s.flag .c).toNat) ∧
    t.flag .v = decide (s.a.toInt + (operandOf f s).toInt + (s.flag .c).toNat < -128 ∨
      127 < s.a.toInt + (operandOf f s).toInt + (s.flag .c).toNat) ∧
    ZNOf t.a t ∧ t.pc = nextPc (.adc f) s ∧
    Frame (.adc f) [.a] [.c, .z, .v, .n] [] 0 s t

/-- SBC: A less operand less borrow modulo 256, the borrow being the complement of C; C is 1 when none occurred; V when the
signed difference leaves -128 to 127. Writes A, C, Z, V, N and nothing else. -/
def Obligations.SbcResult : Prop :=
  ∀ (f : Form) (s : State), ∃ t, exec (.sbc f) s = .next t ∧
    t.a.toNat = (256 + s.a.toNat - (operandOf f s).toNat - (!s.flag .c).toNat) % 256 ∧
    t.flag .c = decide ((operandOf f s).toNat + (!s.flag .c).toNat ≤ s.a.toNat) ∧
    t.flag .v = decide (s.a.toInt - (operandOf f s).toInt - (!s.flag .c).toNat < -128 ∨
      127 < s.a.toInt - (operandOf f s).toInt - (!s.flag .c).toNat) ∧
    ZNOf t.a t ∧ t.pc = nextPc (.sbc f) s ∧
    Frame (.sbc f) [.a] [.c, .z, .v, .n] [] 0 s t

/-- The D flag has no effect on ADC or SBC: both compute in binary whatever it holds, forcing it before the instruction is
forcing it after, and neither changes it. -/
def Obligations.DecimalFlagIgnored : Prop :=
  ∀ (f : Form) (s : State) (d : Bool),
    ∀ e ∈ [(Instr.adc f, (operandOf f s).toNat), (.sbc f, 255 - (operandOf f s).toNat)], ∃ t,
      exec e.1 s = .next t ∧ exec e.1 (s.setFlag .d d) = .next (t.setFlag .d d) ∧ t.flag .d = s.flag .d ∧
      t.a.toNat = (s.a.toNat + e.2 + (s.flag .c).toNat) % 256

/-- ASL and LSR, on the accumulator or on memory: one bit left or right with 0 shifted in, C the bit shifted out, Z and N of
the result (N is 0 after LSR). Writes the destination, C, Z, N and nothing else. Direction and distance are the meaning of
the mnemonics (log entry 8). -/
def Obligations.ShiftResults : Prop :=
  ∀ (f : Form) (s : State),
    (∃ t, exec (.asl f) s = .next t ∧ ∃ r : Byte, r.toNat = 2 * (operandOf f s).toNat % 256 ∧
      (if onAccumulator f s then t.a = r else t.mem.read (effectiveAddress f s) = r) ∧
      t.flag .c = decide (128 ≤ (operandOf f s).toNat) ∧ ZNOf r t ∧ t.pc = nextPc (.asl f) s ∧
      Frame (.asl f) (if onAccumulator f s then [.a] else []) [.c, .z, .n]
        (if onAccumulator f s then [] else [effectiveAddress f s]) 0 s t) ∧
    (∃ t, exec (.lsr f) s = .next t ∧ ∃ r : Byte, r.toNat = (operandOf f s).toNat / 2 ∧
      (if onAccumulator f s then t.a = r else t.mem.read (effectiveAddress f s) = r) ∧
      t.flag .c = decide ((operandOf f s).toNat % 2 = 1) ∧ ZNOf r t ∧ t.flag .n = false ∧ t.pc = nextPc (.lsr f) s ∧
      Frame (.lsr f) (if onAccumulator f s then [.a] else []) [.c, .z, .n]
        (if onAccumulator f s then [] else [effectiveAddress f s]) 0 s t)

/-- ROL and ROR, on the accumulator or on memory: as the shifts, with the carry before the instruction entering the vacated
bit. That ROL goes left and ROR right, by one bit, is the meaning of the mnemonics (log entry 8). -/
def Obligations.RotateResults : Prop :=
  ∀ (f : Form) (s : State),
    (∃ t, exec (.rol f) s = .next t ∧ ∃ r : Byte, r.toNat = (2 * (operandOf f s).toNat + (s.flag .c).toNat) % 256 ∧
      (if onAccumulator f s then t.a = r else t.mem.read (effectiveAddress f s) = r) ∧
      t.flag .c = decide (128 ≤ (operandOf f s).toNat) ∧ ZNOf r t ∧ t.pc = nextPc (.rol f) s ∧
      Frame (.rol f) (if onAccumulator f s then [.a] else []) [.c, .z, .n]
        (if onAccumulator f s then [] else [effectiveAddress f s]) 0 s t) ∧
    (∃ t, exec (.ror f) s = .next t ∧ ∃ r : Byte, r.toNat = (operandOf f s).toNat / 2 + 128 * (s.flag .c).toNat ∧
      (if onAccumulator f s then t.a = r else t.mem.read (effectiveAddress f s) = r) ∧
      t.flag .c = decide ((operandOf f s).toNat % 2 = 1) ∧ ZNOf r t ∧ t.flag .n = s.flag .c ∧
      t.pc = nextPc (.ror f) s ∧
      Frame (.ror f) (if onAccumulator f s then [.a] else []) [.c, .z, .n]
        (if onAccumulator f s then [] else [effectiveAddress f s]) 0 s t)

/-- Nine ROLs of the same location restore the byte and the carry, in every form ROL has. -/
def Obligations.NineRotationsRestore : Prop :=
  ∀ (f : Form) (s : State), (Instr.rol f).wellFormed = true →
    ∃ t, execTimes 9 (.rol f) s = .next t ∧ t.a = s.a ∧ t.flag .c = s.flag .c ∧
      ∀ addr, t.mem.read addr = s.mem.read addr

/-- CMP, CPX and CPY: C is register ≥ operand unsigned, Z and N those of the difference modulo 256; no register, no memory
byte and not V change. -/
def Obligations.CompareResults : Prop :=
  ∀ (f : Form) (s : State), ∀ e ∈ [(Instr.cmp f, s.a), (.cpx f, s.x), (.cpy f, s.y)],
    ∃ t, exec e.1 s = .next t ∧
      t.flag .c = decide ((operandOf f s).toNat ≤ e.2.toNat) ∧
      (∃ r : Byte, r.toNat = (256 + e.2.toNat - (operandOf f s).toNat) % 256 ∧ ZNOf r t) ∧
      t.pc = nextPc e.1 s ∧
      Frame e.1 [] [.c, .z, .n] [] 0 s t

/-- The eight branches, each with the flag and the value it is taken on: `PC` becomes the address of the next instruction plus
the signed offset, modulo 65536, when taken, and stays there when not; the penalty is 0 not taken, 1 taken in the page of the
next instruction, 2 taken to another; nothing else changes. Which flag value each tests is the spec's decision D4
(log entry 8). -/
def Obligations.BranchResults : Prop :=
  ∀ (o : Byte) (s : State),
    ∀ e ∈ [(Instr.bcc o, Flag.c, false), (.bcs o, .c, true), (.bne o, .z, false), (.beq o, .z, true),
        (.bpl o, .n, false), (.bmi o, .n, true), (.bvc o, .v, false), (.bvs o, .v, true)],
      ∃ t, exec e.1 s = .next t ∧
        (s.flag e.2.1 = e.2.2 →
          (t.pc.toNat : Int) = ((s.pc + 1).toNat + o.toInt) % 65536 ∧
          Frame e.1 [] [] [] (if t.pc.toNat / 256 = (s.pc + 1).toNat / 256 then 1 else 2) s t) ∧
        (s.flag e.2.1 ≠ e.2.2 → t.pc = s.pc + 1 ∧ Frame e.1 [] [] [] 0 s t)

/-- LDA, LDX and LDY: the register takes the operand byte, Z and N its values; nothing else changes. -/
def Obligations.LoadResults : Prop :=
  ∀ (f : Form) (s : State), ∀ e ∈ [(Instr.lda f, Reg.a), (.ldx f, .x), (.ldy f, .y)],
    ∃ t, exec e.1 s = .next t ∧ t.reg e.2 = operandOf f s ∧ ZNOf (operandOf f s) t ∧ t.pc = nextPc e.1 s ∧
      Frame e.1 [e.2] [.z, .n] [] 0 s t

/-- STA, STX and STY: the byte at the effective address takes the register; no flag, no register and no other byte change.
That a store writes no flag is the 6502's convention (log entry 8). -/
def Obligations.StoreResults : Prop :=
  ∀ (f : Form) (s : State), ∀ e ∈ [(Instr.sta f, Reg.a), (.stx f, .x), (.sty f, .y)],
    ∃ t, exec e.1 s = .next t ∧ t.mem.read (effectiveAddress f s) = s.reg e.2 ∧ t.pc = nextPc e.1 s ∧
      Frame e.1 [] [] [effectiveAddress f s] 0 s t

/-- The transfers: the destination takes the source, Z and N its values; TXS writes SP and no flag. -/
def Obligations.TransferResults : Prop :=
  ∀ s : State,
    (∀ e ∈ [(Instr.tax, Reg.a, Reg.x), (.tay, .a, .y), (.txa, .x, .a), (.tya, .y, .a), (.tsx, .sp, .x)],
      ∃ t, exec e.1 s = .next t ∧ t.reg e.2.2 = s.reg e.2.1 ∧ ZNOf (s.reg e.2.1) t ∧ t.pc = s.pc ∧
        Frame e.1 [e.2.2] [.z, .n] [] 0 s t) ∧
    (∃ t, exec .txs s = .next t ∧ t.sp = s.x ∧ t.pc = s.pc ∧ Frame .txs [.sp] [] [] 0 s t)

/-- AND, ORA and EOR, bit by bit on A and the operand, with Z and N of the result; C and V unchanged. The definitions are the
spec's decision D4 (log entry 8). -/
def Obligations.LogicResults : Prop :=
  ∀ (f : Form) (s : State),
    ∀ e ∈ [(Instr.and f, fun a m : Bool => a && m), (.ora f, fun a m : Bool => a || m), (.eor f, fun a m : Bool => a ^^ m)],
      ∃ t, exec e.1 s = .next t ∧
        (∀ j, j < 8 → t.a.getLsbD j = e.2 (s.a.getLsbD j) ((operandOf f s).getLsbD j)) ∧
        ZNOf t.a t ∧ t.pc = nextPc e.1 s ∧ Frame e.1 [.a] [.z, .n] [] 0 s t

/-- BIT: Z when A and the operand have no common bit, N and V bits 7 and 6 of the operand; nothing else changes. The
definition is the spec's decision D4 (log entry 8). -/
def Obligations.BitResult : Prop :=
  ∀ (f : Form) (s : State), ∃ t, exec (.bit f) s = .next t ∧
    (t.flag .z = true ↔ ∀ j, j < 8 → ¬(s.a.getLsbD j = true ∧ (operandOf f s).getLsbD j = true)) ∧
    t.flag .n = (operandOf f s).getLsbD 7 ∧ t.flag .v = (operandOf f s).getLsbD 6 ∧
    t.pc = nextPc (.bit f) s ∧ Frame (.bit f) [] [.z, .n, .v] [] 0 s t

/-- INC and DEC: the byte at the effective address takes the operand plus or minus 1 modulo 256, with Z and N of the result;
C and V, the registers and every other byte are unchanged. The definitions are the spec's decision D4 (log entry 8). -/
def Obligations.IncDecMemoryResults : Prop :=
  ∀ (f : Form) (s : State), ∀ e ∈ [(Instr.inc f, 1), (.dec f, 255)],
    ∃ t, exec e.1 s = .next t ∧
      (∃ r : Byte, r.toNat = ((operandOf f s).toNat + e.2) % 256 ∧ t.mem.read (effectiveAddress f s) = r ∧ ZNOf r t) ∧
      t.pc = nextPc e.1 s ∧ Frame e.1 [] [.z, .n] [effectiveAddress f s] 0 s t

/-- INX, INY, DEX and DEY: the register plus or minus 1 modulo 256, with Z and N of the result; nothing else changes. The
definitions are the spec's decision D4 (log entry 8). -/
def Obligations.IncDecRegisterResults : Prop :=
  ∀ s : State, ∀ e ∈ [(Instr.inx, Reg.x, 1), (.iny, .y, 1), (.dex, .x, 255), (.dey, .y, 255)],
    ∃ t, exec e.1 s = .next t ∧ (t.reg e.2.1).toNat = ((s.reg e.2.1).toNat + e.2.2) % 256 ∧ ZNOf (t.reg e.2.1) t ∧
      t.pc = s.pc ∧ Frame e.1 [e.2.1] [.z, .n] [] 0 s t

/-- The seven flag instructions: each forces its flag and changes no other, no register and no memory byte. The definitions
are the spec's decision D4 (log entry 8). -/
def Obligations.FlagInstructionResults : Prop :=
  ∀ s : State,
    ∀ e ∈ [(Instr.clc, Flag.c, false), (.sec, .c, true), (.cli, .i, false), (.sei, .i, true), (.cld, .d, false),
        (.sed, .d, true), (.clv, .v, false)],
      ∃ t, exec e.1 s = .next t ∧ t.flag e.2.1 = e.2.2 ∧ t.pc = s.pc ∧ Frame e.1 [] [e.2.1] [] 0 s t

/-- JMP: `PC` takes the effective address of its form, ABS or IND; nothing else changes and nothing is pushed. The definition
is the spec's decision D4 (log entry 8). -/
def Obligations.JumpResult : Prop :=
  ∀ (f : Form) (s : State), ∃ t, exec (.jmp f) s = .next t ∧ t.pc = effectiveAddress f s ∧
    Frame (.jmp f) [] [] [] 0 s t

/-- PHA stores A at the stack location and lowers SP; PLA raises SP and loads A from the stack location, with Z and N of the
byte. PHA, then PLA after any other write of A, gives A back with its Z and N, and SP. -/
def Obligations.AccumulatorStackResults : Prop :=
  ∀ s : State,
    (∃ t, exec .pha s = .next t ∧ t.mem.read (stackAddr s.sp) = s.a ∧ t.sp = s.sp - 1 ∧ t.pc = s.pc ∧
      Frame .pha [.sp] [] [stackAddr s.sp] 0 s t ∧
      ∀ v : Byte, ∃ u, exec .pla { t with a := v } = .next u ∧ u.a = s.a ∧ u.sp = s.sp ∧ ZNOf s.a u) ∧
    (∃ t, exec .pla s = .next t ∧ t.a = s.mem.read (stackAddr (s.sp + 1)) ∧ ZNOf t.a t ∧ t.sp = s.sp + 1 ∧
      t.pc = s.pc ∧ Frame .pla [.a, .sp] [.z, .n] [] 0 s t)

/-- PHP pushes the eight flags with B and U forced to 1 and clears the stored B and U (the sequencer sets U again; the clears
are the spec's decision D9, log entry 7); PLP pulls all eight flags and forces U to 1. -/
def Obligations.StatusStackResults : Prop :=
  ∀ s : State,
    (∃ t, exec .php s = .next t ∧
      (∀ g, readFlag (t.mem.read (stackAddr s.sp)) g = (s.flag g || decide (g ∈ [Flag.b, .u]))) ∧
      t.flag .b = false ∧ t.flag .u = false ∧ t.sp = s.sp - 1 ∧ t.pc = s.pc ∧
      Frame .php [.sp] [.b, .u] [stackAddr s.sp] 0 s t) ∧
    (∃ t, exec .plp s = .next t ∧
      (∀ g, g ≠ .u → t.flag g = readFlag (s.mem.read (stackAddr (s.sp + 1))) g) ∧ t.flag .u = true ∧
      t.sp = s.sp + 1 ∧ t.pc = s.pc ∧ Frame .plp [.sp] [.n, .v, .b, .u, .d, .i, .z, .c] [] 0 s t)

/-- JSR pushes the address of its own last byte, high byte first, and jumps; RTS pulls a word, low byte first, and continues at
the word plus one. JSR, then RTS from wherever the subroutine ends, continues at the instruction after the JSR with SP
restored. The byte orders are the spec's decision D11 (log entry 13). -/
def Obligations.SubroutineResults : Prop :=
  ∀ (a : Addr) (s : State),
    (∃ t, exec (.jsr a) s = .next t ∧ t.pc = a ∧ t.sp = s.sp - 2 ∧
      t.mem.read (stackAddr s.sp) = hi8 (s.pc + 1) ∧ t.mem.read (stackAddr (s.sp - 1)) = lo8 (s.pc + 1) ∧
      Frame (.jsr a) [.sp] [] [stackAddr s.sp, stackAddr (s.sp - 1)] 0 s t ∧
      ∀ q : Addr, ∃ u, exec .rts { t with pc := q } = .next u ∧ u.pc = nextPc (.jsr a) s ∧ u.sp = s.sp) ∧
    (∃ t, exec .rts s = .next t ∧
      t.pc = word (s.mem.read (stackAddr (s.sp + 2))) (s.mem.read (stackAddr (s.sp + 1))) + 1 ∧ t.sp = s.sp + 2 ∧
      Frame .rts [.sp] [] [] 0 s t)

/-- BRK takes the trap: it pushes the address after the byte after the opcode, high byte first, and the status with B and I
set and the other flags as they were; I is set and the stored B cleared; `PC` takes the vector at 0xFFFE/0xFFFF. The skipped
byte is the spec's decision D3 (log entry 6), the cleared B its decision D9 (log entry 7). -/
def Obligations.BrkResult : Prop :=
  ∀ s : State, ∃ t, exec .brk s = .next t ∧
    t.mem.read (stackAddr s.sp) = hi8 (s.pc + 1) ∧ t.mem.read (stackAddr (s.sp - 1)) = lo8 (s.pc + 1) ∧
    (∀ g, readFlag (t.mem.read (stackAddr (s.sp - 2))) g = (s.flag g || decide (g ∈ [Flag.b, .i]))) ∧
    t.sp = s.sp - 3 ∧ t.flag .i = true ∧ t.flag .b = false ∧
    t.pc.toNat = (s.mem.read 0xFFFF#16).toNat * 256 + (s.mem.read 0xFFFE#16).toNat ∧
    Frame .brk [.sp] [.i, .b] [stackAddr s.sp, stackAddr (s.sp - 1), stackAddr (s.sp - 2)] 0 s t

/-- The trap entry as the clock sees it: in Idle at an opcode byte 0x00, whatever I holds, one step saves `PC` plus 2 and a
status byte with B, U and I set, and leaves the machine Mid-instruction at the vector with U set. The saved address rests on
the spec's decision D3 (log entry 6), the cleared stored B on its decision D9 (log entry 7), the six steps left on its base
count for BRK, decision D1 (log entry 5). -/
def Obligations.TrapEntryStep : Prop :=
  ∀ s : State, s.cycles = 0 → s.mem.read s.pc = 0x00#8 →
    ∃ t, step s = .next t ∧
      t.mem.read (stackAddr s.sp) = hi8 (s.pc + 2) ∧ t.mem.read (stackAddr (s.sp - 1)) = lo8 (s.pc + 2) ∧
      (∀ g, readFlag (t.mem.read (stackAddr (s.sp - 2))) g = (s.flag g || decide (g ∈ [Flag.b, .u, .i]))) ∧
      t.sp = s.sp - 3 ∧ (∀ g, t.flag g = if g = .b then false else s.flag g || decide (g ∈ [Flag.u, .i])) ∧
      t.pc = word (s.mem.read 0xFFFF#16) (s.mem.read 0xFFFE#16) ∧
      t.a = s.a ∧ t.x = s.x ∧ t.y = s.y ∧ t.cycles = 6

/-- RTI pulls the status, then `PC` low and high, and continues there with no increment; B and U are cleared (the sequencer
sets U again), the six other flags are the pulled ones. The order of the pulls is the spec's decision D11 (log entry 13). -/
def Obligations.RtiResult : Prop :=
  ∀ s : State, ∃ t, exec .rti s = .next t ∧
    (∀ g, t.flag g = (readFlag (s.mem.read (stackAddr (s.sp + 1))) g && decide (g ∉ [Flag.b, .u]))) ∧
    t.pc = word (s.mem.read (stackAddr (s.sp + 3))) (s.mem.read (stackAddr (s.sp + 2))) ∧ t.sp = s.sp + 3 ∧
    Frame .rti [.sp] [.n, .v, .b, .u, .d, .i, .z, .c] [] 0 s t

/-- RTI after BRK, from wherever the handler ends and whatever it did to the flags: execution resumes at the address BRK
saved, with SP and the flags C, Z, D, V, N of before the BRK, with I set because BRK saved it set, and with B clear. The saved address rests on the spec's decision D3 (log entry 6), the
order of RTI's pulls on its decision D11 (log entry 13). -/
def Obligations.TrapAndReturn : Prop :=
  ∀ (s : State) (q : Addr) (p : Byte), ∃ t u, exec .brk s = .next t ∧ exec .rti { t with pc := q, p := p } = .next u ∧
    u.pc = s.pc + 1 ∧ u.sp = s.sp ∧ u.flag .i = true ∧ u.flag .b = false ∧
    (∀ g ∈ [Flag.c, .z, .d, .v, .n], u.flag g = s.flag g) ∧ u.a = s.a ∧ u.x = s.x ∧ u.y = s.y

/-- NOP, the NOP aliases and XXX change no register, no flag and no memory byte; `PC` passes the operand bytes of an alias's
form and nothing more for NOP and XXX. That undocumented opcodes run is the model's choice of UNDOC_POLICY (log entry 1),
which bytes they are is the spec's decision D2 (log entry 2). -/
def Obligations.NopResults : Prop :=
  ∀ (op : Byte) (f : Form) (s : State), ∀ i ∈ [Instr.nop, .nopAlias op f, .xxx op],
    ∃ t, exec i s = .next t ∧ t.pc = nextPc i s ∧ Frame i [] [] [] 0 s t
end

