-- ==== Sys2Proof/Laws/Bits.lean ====
section
/-! SUPPORT. The bit helpers as numbers, and what bytes and words make of each other. -/

namespace Sys2Proof.Machine

theorem word_toNat (h l : Byte) : (word h l).toNat = h.toNat * 256 + l.toNat := by
  have hl := l.isLt
  simp only [word, BitVec.toNat_append]
  rw [← Nat.shiftLeft_add_eq_or_of_lt hl, Nat.shiftLeft_eq]

theorem lo8_toNat (w : Addr) : (lo8 w).toNat = w.toNat % 256 := by simp [lo8]

theorem hi8_toNat (w : Addr) : (hi8 w).toNat = w.toNat / 256 := by
  have := w.isLt
  simp [hi8, Nat.shiftRight_eq_div_pow]; omega

theorem zext16_toNat (b : Byte) : (zext16 b).toNat = b.toNat := by
  have := b.isLt
  simp [zext16]; omega

theorem sext16_toNat (b : Byte) : (sext16 b).toNat = if b.toNat < 128 then b.toNat else b.toNat + 0xFF00 := by
  revert b; decide +kernel

@[simp] theorem lo8_word (h l : Byte) : lo8 (word h l) = l := by
  have := l.isLt
  apply BitVec.eq_of_toNat_eq; rw [lo8_toNat, word_toNat]; omega

@[simp] theorem hi8_word (h l : Byte) : hi8 (word h l) = h := by
  have := l.isLt
  apply BitVec.eq_of_toNat_eq; rw [hi8_toNat, word_toNat]; omega

@[simp] theorem word_hi8_lo8 (w : Addr) : word (hi8 w) (lo8 w) = w := by
  apply BitVec.eq_of_toNat_eq; rw [word_toNat, hi8_toNat, lo8_toNat]; omega

theorem sext16_toInt (b : Byte) : (sext16 b).toInt = b.toInt := by revert b; decide +kernel

/-- Two addresses lie in different pages. -/
theorem hi8_bne (a b : Addr) : (hi8 a != hi8 b) = true ↔ a.toNat / 256 ≠ b.toNat / 256 := by
  rw [← hi8_toNat, ← hi8_toNat, bne_iff_ne, ne_eq, ne_eq, BitVec.toNat_inj]

/-- An unsigned index added to an address, modulo 65536. -/
theorem add_zext16_toNat (w : Addr) (x : Byte) : (w + zext16 x).toNat = (w.toNat + x.toNat) % 65536 := by
  simp [BitVec.toNat_add, zext16_toNat]

end Sys2Proof.Machine
end

