-- ==== Sys2Proof/Laws/Encoding.lean ====
section
/-! SUPPORT. The two opcode tables against each other, and the lengths of forms and encodings. -/

namespace Sys2Proof

open Machine

/-- The grid has sixteen rows of sixteen entries, so `opcodeRow` never reads a default. -/
theorem Laws.opcodeRow_total : grid.length = 16 ∧ ∀ r ∈ grid, r.length = 16 := by decide

/-- The row of a grid entry in the tables by mnemonic: the opcode byte and the base count stand there too. -/
def Laws.rowAgrees (op : Byte) : Bool :=
  let r := opcodeRow op
  match r.mnemonic with
  | .xxx => xxxRow op == some r.base && r.mode == .imp
  | .nop =>
    if op == 0xEA#8 then documentedRow .nop r.mode == some (op, r.base)
    else nopAliasRow op == some (r.mode, r.base)
  | m => documentedRow m r.mode == some (op, r.base)

/-- The grid and the tables by mnemonic agree on all 256 opcode bytes. -/
theorem Laws.rowAgrees_all : ∀ op : Byte, Laws.rowAgrees op = true := by decide +kernel

@[simp] theorem Form.bytes_length (f : Form) : f.bytes.length = f.mode.operandBytes := by cases f <;> rfl

@[simp] theorem formOf_mode (k : Mode) (b1 b2 : Byte) : (formOf k b1 b2).mode = k := by cases k <;> rfl

/-- A documented form has a row, and so an opcode byte. -/
theorem documentedRow_isSome {m : Mnemonic} {f : Form} (h : formAllowed m f = true) :
    ∃ r, documentedRow m f.mode = some r := by
  simp only [formAllowed, List.any_eq_true, beq_iff_eq] at h
  obtain ⟨r, hr, hk⟩ := h
  unfold documentedRow
  cases hl : List.lookup f.mode (documentedRows m) with
  | some v => exact ⟨v, rfl⟩
  | none =>
    rw [List.lookup_eq_none_iff] at hl
    have := hl r hr
    simp [hk] at this

theorem nopAliasRow_of_allowed : ∀ r ∈ nopAliasRows, ∀ op ∈ r.2.2, nopAliasRow op = some (r.1, r.2.1) := by decide +kernel

theorem xxxRow_of_allowed {op : Byte} (h : slotAllowed op = true) : ∃ n, xxxRow op = some n := by
  simp only [slotAllowed, List.any_eq_true] at h
  rw [← Option.isSome_iff_exists, xxxRow, Option.isSome_map, List.find?_isSome]
  exact h

theorem encode_of_opcodeByte {i : Instr} {op : Byte} (h : opcodeByte i = some op) : encode i = op :: i.form.bytes := by
  rw [encode, h]

end Sys2Proof
end

