-- ==== Sys2Proof/Laws/Flags.lean ====
section
/-! SUPPORT. Reading and writing the flags of a status byte, and the ALU outcomes as numbers. -/

namespace Sys2Proof.Machine

theorem readFlag_or (p q : Byte) (g : Flag) : readFlag (p ||| q) g = (readFlag p g || readFlag q g) := by
  simp [readFlag]

theorem readFlag_mask (f g : Flag) : readFlag f.mask g = decide (g = f) := by cases f <;> cases g <;> decide

theorem readFlag_writeFlag (p : Byte) (f g : Flag) (v : Bool) :
    readFlag (writeFlag p f v) g = if g = f then v else readFlag p g := by
  have h8 : g.bit < 8 := by cases g <;> decide
  have hm := readFlag_mask f g
  by_cases h : g = f <;> cases v <;> simp_all [writeFlag, readFlag]

@[simp] theorem readFlag_writeFlag_same (p : Byte) (f : Flag) (v : Bool) : readFlag (writeFlag p f v) f = v := by
  simp [readFlag_writeFlag]

theorem readFlag_writeFlag_other (p : Byte) {f g : Flag} (v : Bool) (h : g ≠ f) :
    readFlag (writeFlag p f v) g = readFlag p g := by simp [readFlag_writeFlag, h]

/-- A status byte is its eight flags. -/
theorem status_ext {p q : Byte} (h : ∀ g, readFlag p g = readFlag q g) : p = q := by
  apply BitVec.eq_of_getLsbD_eq
  intro i hi
  have hc := h .c; have hz := h .z; have hI := h .i; have hd := h .d
  have hb := h .b; have hu := h .u; have hv := h .v; have hn := h .n
  simp only [readFlag, Flag.bit] at hc hz hI hd hb hu hv hn
  match i, hi with
  | 0, _ => exact hc
  | 1, _ => exact hz
  | 2, _ => exact hI
  | 3, _ => exact hd
  | 4, _ => exact hb
  | 5, _ => exact hu
  | 6, _ => exact hv
  | 7, _ => exact hn

theorem flag_setFlag (s : State) (f g : Flag) (v : Bool) :
    (s.setFlag f v).flag g = if g = f then v else s.flag g := readFlag_writeFlag s.p f g v

theorem flag_setZN (s : State) (g : Flag) (v : Byte) :
    (s.setZN v).flag g = if g = .n then v.msb else if g = .z then v == 0x00#8 else s.flag g := by
  simp [State.setZN, flag_setFlag]

theorem flag_setSumFlags (s : State) (g : Flag) (r : Sum) :
    (s.setSumFlags r).flag g =
      if g = .n then r.value.msb else if g = .z then r.value == 0x00#8
      else if g = .v then r.overflow else if g = .c then r.carry else s.flag g := by
  simp [State.setSumFlags, flag_setZN, flag_setFlag]

theorem flag_setCompareFlags (s : State) (g : Flag) (r m : Byte) :
    (s.setCompareFlags r m).flag g =
      if g = .n then (r - m).msb else if g = .z then (r - m) == 0x00#8
      else if g = .c then decide (m ≤ r) else s.flag g := by
  simp [State.setCompareFlags, flag_setZN, flag_setFlag]

theorem flag_setShiftFlags (s : State) (g : Flag) (r : Shifted) :
    (s.setShiftFlags r).flag g =
      if g = .n then r.value.msb else if g = .z then r.value == 0x00#8
      else if g = .c then r.out else s.flag g := by
  simp [State.setShiftFlags, flag_setZN, flag_setFlag]

theorem flag_setBitFlags (s : State) (g : Flag) (a m : Byte) :
    (s.setBitFlags a m).flag g =
      if g = .v then m.getLsbD 6 else if g = .n then m.getLsbD 7
      else if g = .z then (a &&& m) == 0x00#8 else s.flag g := by
  simp [State.setBitFlags, flag_setFlag]

theorem addWithCarry_value (a m : Byte) (c : Bool) :
    (addWithCarry a m c).value.toNat = (a.toNat + m.toNat + c.toNat) % 256 := by
  simp [addWithCarry]

theorem addWithCarry_carry (a m : Byte) (c : Bool) :
    (addWithCarry a m c).carry = decide (256 ≤ a.toNat + m.toNat + c.toNat) := by
  have := a.isLt; have := m.isLt
  have hc : c.toNat ≤ 1 := by cases c <;> decide
  simp only [addWithCarry, Nat.testBit_eq_decide_div_mod_eq, decide_eq_decide]
  omega

/-- V is set exactly when the signed sum leaves the range of a byte. -/
theorem addWithCarry_overflow (a m : Byte) (c : Bool) :
    (addWithCarry a m c).overflow =
      decide (a.toInt + m.toInt + c.toNat < -128 ∨ 127 < a.toInt + m.toInt + c.toNat) := by
  have ha := a.isLt; have hm := m.isLt
  have hc : c.toNat ≤ 1 := by cases c <;> decide
  simp only [addWithCarry, BitVec.msb_and, BitVec.msb_xor]
  simp only [BitVec.msb_eq_decide, BitVec.toNat_ofNat, BitVec.toInt_eq_toNat_cond]
  rw [Bool.eq_iff_iff]
  simp only [Bool.and_eq_true, bne_iff_ne, ne_eq, decide_eq_decide, decide_eq_true_eq]
  split <;> split <;> omega

theorem complement_toNat (m : Byte) : (m ^^^ 0xFF#8).toNat = 255 - m.toNat := by revert m; decide +kernel

theorem complement_toInt (m : Byte) : (m ^^^ 0xFF#8).toInt = -1 - m.toInt := by revert m; decide +kernel

theorem subtractWithBorrow_value (a m : Byte) (c : Bool) :
    (subtractWithBorrow a m c).value.toNat = (256 + a.toNat - m.toNat - (!c).toNat) % 256 := by
  have := a.isLt; have := m.isLt
  rw [subtractWithBorrow, addWithCarry_value, complement_toNat]
  cases c <;> simp <;> omega

theorem subtractWithBorrow_carry (a m : Byte) (c : Bool) :
    (subtractWithBorrow a m c).carry = decide (m.toNat + (!c).toNat ≤ a.toNat) := by
  have := a.isLt; have := m.isLt
  rw [subtractWithBorrow, addWithCarry_carry, complement_toNat, decide_eq_decide]
  cases c <;> simp <;> omega

/-- V is set exactly when the signed difference leaves the range of a byte. -/
theorem subtractWithBorrow_overflow (a m : Byte) (c : Bool) :
    (subtractWithBorrow a m c).overflow =
      decide (a.toInt - m.toInt - (!c).toNat < -128 ∨ 127 < a.toInt - m.toInt - (!c).toNat) := by
  rw [subtractWithBorrow, addWithCarry_overflow, complement_toInt, decide_eq_decide]
  cases c <;> simp <;> omega

/-! ## Shifts and status bytes as numbers -/

theorem shiftLeft_value (m : Byte) : (shiftLeft m).value = BitVec.ofNat 8 (2 * m.toNat) := by revert m; decide +kernel

theorem shiftRight_value (m : Byte) : (shiftRight m).value = BitVec.ofNat 8 (m.toNat / 2) := by revert m; decide +kernel

theorem rotateLeft_value (m : Byte) (c : Bool) :
    (rotateLeft m c).value = BitVec.ofNat 8 (2 * m.toNat + c.toNat) := by
  revert m c; decide +kernel

theorem rotateRight_value (m : Byte) (c : Bool) :
    (rotateRight m c).value = BitVec.ofNat 8 (m.toNat / 2 + 128 * c.toNat) := by
  revert m c; decide +kernel

end Sys2Proof.Machine
end

