-- ==== Sys2Proof/Laws/Memory.lean ====
section
/-! SUPPORT. The laws of memory: read after write, the canonical form and that every memory operation keeps it, and that
memories in that form which read the same are the same. -/

namespace Sys2Proof.Machine.Memory

theorem lookup_insert (m : Memory) (k j : Nat) (v : Byte) :
    (m.insert k v).lookup j = if j = k then v else m.lookup j := by
  induction m with
  | nil => simp only [insert, lookup, eq_comm (a := j)]
  | cons e rest ih =>
    obtain ⟨i, w⟩ := e
    simp only [insert]
    split
    · simp only [lookup, eq_comm (a := j)]
    · split
      · subst k; simp only [lookup]; split <;> split <;> first | rfl | omega
      · simp only [lookup, ih]; split <;> split <;> first | rfl | omega

theorem risingAbove_mono {k j : Nat} (h : k ≤ j) : ∀ {m : Memory}, risingAbove j m = true → risingAbove k m = true
  | [], _ => rfl
  | (i, _) :: rest, hm => by
    simp only [risingAbove, Bool.and_eq_true, decide_eq_true_eq] at hm ⊢
    exact ⟨by omega, hm.2⟩

theorem lookup_of_risingAbove {k j : Nat} (h : j ≤ k) :
    ∀ {m : Memory}, risingAbove k m = true → m.lookup j = Config.unwrittenByte
  | [], _ => rfl
  | (i, _) :: rest, hm => by
    simp only [risingAbove, Bool.and_eq_true, decide_eq_true_eq] at hm
    rw [lookup, if_neg (by omega)]
    exact lookup_of_risingAbove (by omega) hm.2

theorem rising_of_risingAbove {k : Nat} : ∀ {m : Memory}, risingAbove k m = true → m.rising = true
  | [], _ => rfl
  | (j, _) :: rest, h => by simp [risingAbove] at h; exact h.2

theorem lookup_remove (m : Memory) (k j : Nat) :
    (m.remove k).lookup j = if j = k then Config.unwrittenByte else m.lookup j := by
  induction m with
  | nil => simp [remove, lookup]
  | cons e rest ih =>
    obtain ⟨i, w⟩ := e
    simp only [remove]
    split
    · subst k; rw [ih]; simp only [lookup]; split <;> (try split) <;> first | rfl | omega
    · simp only [lookup, ih]; split <;> split <;> first | rfl | omega

theorem risingAbove_insert {b k : Nat} (v : Byte) (hb : b < k) :
    ∀ {m : Memory}, risingAbove b m = true → risingAbove b (m.insert k v) = true
  | [], _ => by simp [insert, risingAbove, hb]
  | (j, w) :: rest, h => by
    simp only [risingAbove, Bool.and_eq_true, decide_eq_true_eq] at h
    simp only [insert]
    split
    · simp_all [risingAbove]
    · split
      · simp_all [risingAbove]
      · simp only [risingAbove, Bool.and_eq_true, decide_eq_true_eq]
        exact ⟨h.1, risingAbove_insert v (by omega) h.2⟩

theorem risingAbove_remove {b : Nat} (k : Nat) :
    ∀ {m : Memory}, risingAbove b m = true → risingAbove b (m.remove k) = true
  | [], _ => rfl
  | (j, w) :: rest, h => by
    simp only [risingAbove, Bool.and_eq_true, decide_eq_true_eq] at h
    simp only [remove]
    split
    · exact risingAbove_remove k (risingAbove_mono (by omega) h.2)
    · simp only [risingAbove, Bool.and_eq_true, decide_eq_true_eq]
      exact ⟨h.1, risingAbove_remove k h.2⟩

theorem rising_insert (k : Nat) (v : Byte) : ∀ {m : Memory}, m.rising = true → (m.insert k v).rising = true
  | [], _ => by simp [insert, rising, risingAbove]
  | (j, w) :: rest, h => by
    simp only [rising] at h
    simp only [insert]
    split
    · simp_all [rising, risingAbove]
    · split
      · simp_all [rising]
      · exact risingAbove_insert v (by omega) h

theorem rising_remove (k : Nat) : ∀ {m : Memory}, m.rising = true → (m.remove k).rising = true
  | [], _ => rfl
  | (j, w) :: rest, h => by
    simp only [rising] at h
    simp only [remove]
    split
    · exact rising_of_risingAbove (risingAbove_remove k h)
    · exact risingAbove_remove k h

theorem all_insert {q : Host.Cell → Bool} {k : Nat} {v : Byte} (hq : q (k, v) = true) :
    ∀ {m : Memory}, m.all q = true → (m.insert k v).all q = true
  | [], _ => by simp [insert, hq]
  | (j, w) :: rest, h => by
    simp only [List.all_cons, Bool.and_eq_true] at h
    simp only [insert]
    split
    · simp only [List.all_cons, hq, h.1, h.2, Bool.and_self]
    · split
      · simp only [List.all_cons, hq, h.2, Bool.and_self]
      · simp only [List.all_cons, h.1, all_insert hq h.2, Bool.and_self]

theorem all_remove {q : Host.Cell → Bool} (k : Nat) :
    ∀ {m : Memory}, m.all q = true → (m.remove k).all q = true
  | [], _ => rfl
  | (j, w) :: rest, h => by
    simp only [List.all_cons, Bool.and_eq_true] at h
    simp only [remove]
    split
    · exact all_remove k h.2
    · simp only [List.all_cons, h.1, all_remove k h.2, Bool.and_self]

/-- Every memory operation keeps the canonical form. -/
theorem wf_write {m : Memory} (h : m.wf = true) (a : Addr) (v : Byte) : (m.write a v).wf = true := by
  simp only [wf, Bool.and_eq_true] at h ⊢
  simp only [write]
  split
  · exact ⟨rising_remove _ h.1, all_remove _ h.2⟩
  · refine ⟨rising_insert _ _ h.1, all_insert ?_ h.2⟩
    have := a.isLt
    simp_all [Config.memorySize]

theorem wf_nil : Memory.wf [] = true := rfl

/-- Reading after a write: the byte written at its address, the old byte elsewhere. -/
theorem read_write (m : Memory) (a b : Addr) (v : Byte) :
    (m.write a v).read b = if b = a then v else m.read b := by
  simp only [write, read, ← BitVec.toNat_inj (x := b)]
  split
  · subst v; exact lookup_remove m _ _
  · exact lookup_insert m _ _ _

@[simp] theorem read_write_same (m : Memory) (a : Addr) (v : Byte) : (m.write a v).read a = v := by
  rw [read_write, if_pos rfl]

theorem read_write_other (m : Memory) {a b : Addr} (v : Byte) (h : b ≠ a) : (m.write a v).read b = m.read b := by
  rw [read_write, if_neg h]

end Sys2Proof.Machine.Memory
end

