-- ==== Sys2Proof/Laws/State.lean ====
section
/-! SUPPORT. One lemma for each field of State and each named update of it, so that no later proof unfolds an update. -/

namespace Sys2Proof.Machine

section
variable (s : State) (f : Flag) (v : Bool)
@[simp] theorem setFlag_a : (s.setFlag f v).a = s.a := rfl
@[simp] theorem setFlag_x : (s.setFlag f v).x = s.x := rfl
@[simp] theorem setFlag_y : (s.setFlag f v).y = s.y := rfl
@[simp] theorem setFlag_sp : (s.setFlag f v).sp = s.sp := rfl
@[simp] theorem setFlag_pc : (s.setFlag f v).pc = s.pc := rfl
@[simp] theorem setFlag_p : (s.setFlag f v).p = writeFlag s.p f v := rfl
@[simp] theorem setFlag_addrAbs : (s.setFlag f v).addrAbs = s.addrAbs := rfl
@[simp] theorem setFlag_addrRel : (s.setFlag f v).addrRel = s.addrRel := rfl
@[simp] theorem setFlag_opcode : (s.setFlag f v).opcode = s.opcode := rfl
@[simp] theorem setFlag_accMode : (s.setFlag f v).accMode = s.accMode := rfl
@[simp] theorem setFlag_cycles : (s.setFlag f v).cycles = s.cycles := rfl
@[simp] theorem setFlag_mem : (s.setFlag f v).mem = s.mem := rfl
end

section
variable (s : State) (v : Byte)
@[simp] theorem setZN_a : (s.setZN v).a = s.a := rfl
@[simp] theorem setZN_x : (s.setZN v).x = s.x := rfl
@[simp] theorem setZN_y : (s.setZN v).y = s.y := rfl
@[simp] theorem setZN_sp : (s.setZN v).sp = s.sp := rfl
@[simp] theorem setZN_pc : (s.setZN v).pc = s.pc := rfl
@[simp] theorem setZN_p : (s.setZN v).p = writeFlag (writeFlag s.p .z (v == 0x00#8)) .n v.msb := rfl
@[simp] theorem setZN_addrAbs : (s.setZN v).addrAbs = s.addrAbs := rfl
@[simp] theorem setZN_addrRel : (s.setZN v).addrRel = s.addrRel := rfl
@[simp] theorem setZN_opcode : (s.setZN v).opcode = s.opcode := rfl
@[simp] theorem setZN_accMode : (s.setZN v).accMode = s.accMode := rfl
@[simp] theorem setZN_cycles : (s.setZN v).cycles = s.cycles := rfl
@[simp] theorem setZN_mem : (s.setZN v).mem = s.mem := rfl
end

section
variable (s : State) (r : Sum)
@[simp] theorem setSumFlags_a : (s.setSumFlags r).a = s.a := rfl
@[simp] theorem setSumFlags_x : (s.setSumFlags r).x = s.x := rfl
@[simp] theorem setSumFlags_y : (s.setSumFlags r).y = s.y := rfl
@[simp] theorem setSumFlags_sp : (s.setSumFlags r).sp = s.sp := rfl
@[simp] theorem setSumFlags_pc : (s.setSumFlags r).pc = s.pc := rfl
@[simp] theorem setSumFlags_addrAbs : (s.setSumFlags r).addrAbs = s.addrAbs := rfl
@[simp] theorem setSumFlags_addrRel : (s.setSumFlags r).addrRel = s.addrRel := rfl
@[simp] theorem setSumFlags_opcode : (s.setSumFlags r).opcode = s.opcode := rfl
@[simp] theorem setSumFlags_accMode : (s.setSumFlags r).accMode = s.accMode := rfl
@[simp] theorem setSumFlags_cycles : (s.setSumFlags r).cycles = s.cycles := rfl
@[simp] theorem setSumFlags_mem : (s.setSumFlags r).mem = s.mem := rfl
end

section
variable (s : State) (r m : Byte)
@[simp] theorem setCompareFlags_a : (s.setCompareFlags r m).a = s.a := rfl
@[simp] theorem setCompareFlags_x : (s.setCompareFlags r m).x = s.x := rfl
@[simp] theorem setCompareFlags_y : (s.setCompareFlags r m).y = s.y := rfl
@[simp] theorem setCompareFlags_sp : (s.setCompareFlags r m).sp = s.sp := rfl
@[simp] theorem setCompareFlags_pc : (s.setCompareFlags r m).pc = s.pc := rfl
@[simp] theorem setCompareFlags_addrAbs : (s.setCompareFlags r m).addrAbs = s.addrAbs := rfl
@[simp] theorem setCompareFlags_addrRel : (s.setCompareFlags r m).addrRel = s.addrRel := rfl
@[simp] theorem setCompareFlags_opcode : (s.setCompareFlags r m).opcode = s.opcode := rfl
@[simp] theorem setCompareFlags_accMode : (s.setCompareFlags r m).accMode = s.accMode := rfl
@[simp] theorem setCompareFlags_cycles : (s.setCompareFlags r m).cycles = s.cycles := rfl
@[simp] theorem setCompareFlags_mem : (s.setCompareFlags r m).mem = s.mem := rfl
end

section
variable (s : State) (r : Shifted)
@[simp] theorem setShiftFlags_a : (s.setShiftFlags r).a = s.a := rfl
@[simp] theorem setShiftFlags_x : (s.setShiftFlags r).x = s.x := rfl
@[simp] theorem setShiftFlags_y : (s.setShiftFlags r).y = s.y := rfl
@[simp] theorem setShiftFlags_sp : (s.setShiftFlags r).sp = s.sp := rfl
@[simp] theorem setShiftFlags_pc : (s.setShiftFlags r).pc = s.pc := rfl
@[simp] theorem setShiftFlags_addrAbs : (s.setShiftFlags r).addrAbs = s.addrAbs := rfl
@[simp] theorem setShiftFlags_addrRel : (s.setShiftFlags r).addrRel = s.addrRel := rfl
@[simp] theorem setShiftFlags_opcode : (s.setShiftFlags r).opcode = s.opcode := rfl
@[simp] theorem setShiftFlags_accMode : (s.setShiftFlags r).accMode = s.accMode := rfl
@[simp] theorem setShiftFlags_cycles : (s.setShiftFlags r).cycles = s.cycles := rfl
@[simp] theorem setShiftFlags_mem : (s.setShiftFlags r).mem = s.mem := rfl
end

section
variable (s : State) (a m : Byte)
@[simp] theorem setBitFlags_a : (s.setBitFlags a m).a = s.a := rfl
@[simp] theorem setBitFlags_x : (s.setBitFlags a m).x = s.x := rfl
@[simp] theorem setBitFlags_y : (s.setBitFlags a m).y = s.y := rfl
@[simp] theorem setBitFlags_sp : (s.setBitFlags a m).sp = s.sp := rfl
@[simp] theorem setBitFlags_pc : (s.setBitFlags a m).pc = s.pc := rfl
@[simp] theorem setBitFlags_addrAbs : (s.setBitFlags a m).addrAbs = s.addrAbs := rfl
@[simp] theorem setBitFlags_addrRel : (s.setBitFlags a m).addrRel = s.addrRel := rfl
@[simp] theorem setBitFlags_opcode : (s.setBitFlags a m).opcode = s.opcode := rfl
@[simp] theorem setBitFlags_accMode : (s.setBitFlags a m).accMode = s.accMode := rfl
@[simp] theorem setBitFlags_cycles : (s.setBitFlags a m).cycles = s.cycles := rfl
@[simp] theorem setBitFlags_mem : (s.setBitFlags a m).mem = s.mem := rfl
end

section
variable (s : State) (n : Nat)
@[simp] theorem armCycles_a : (s.armCycles n).a = s.a := rfl
@[simp] theorem armCycles_x : (s.armCycles n).x = s.x := rfl
@[simp] theorem armCycles_y : (s.armCycles n).y = s.y := rfl
@[simp] theorem armCycles_sp : (s.armCycles n).sp = s.sp := rfl
@[simp] theorem armCycles_pc : (s.armCycles n).pc = s.pc := rfl
@[simp] theorem armCycles_p : (s.armCycles n).p = s.p := rfl
@[simp] theorem armCycles_addrAbs : (s.armCycles n).addrAbs = s.addrAbs := rfl
@[simp] theorem armCycles_addrRel : (s.armCycles n).addrRel = s.addrRel := rfl
@[simp] theorem armCycles_opcode : (s.armCycles n).opcode = s.opcode := rfl
@[simp] theorem armCycles_accMode : (s.armCycles n).accMode = s.accMode := rfl
@[simp] theorem armCycles_cycles : (s.armCycles n).cycles = n := rfl
@[simp] theorem armCycles_mem : (s.armCycles n).mem = s.mem := rfl
end

section
variable (s : State)
@[simp] theorem countDown_a : s.countDown.a = s.a := rfl
@[simp] theorem countDown_x : s.countDown.x = s.x := rfl
@[simp] theorem countDown_y : s.countDown.y = s.y := rfl
@[simp] theorem countDown_sp : s.countDown.sp = s.sp := rfl
@[simp] theorem countDown_pc : s.countDown.pc = s.pc := rfl
@[simp] theorem countDown_p : s.countDown.p = s.p := rfl
@[simp] theorem countDown_addrAbs : s.countDown.addrAbs = s.addrAbs := rfl
@[simp] theorem countDown_addrRel : s.countDown.addrRel = s.addrRel := rfl
@[simp] theorem countDown_opcode : s.countDown.opcode = s.opcode := rfl
@[simp] theorem countDown_accMode : s.countDown.accMode = s.accMode := rfl
@[simp] theorem countDown_cycles : s.countDown.cycles = s.cycles - 1 := rfl
@[simp] theorem countDown_mem : s.countDown.mem = s.mem := rfl
end

section
variable (s : State)
@[simp] theorem endInstr_a : s.endInstr.a = s.a := rfl
@[simp] theorem endInstr_x : s.endInstr.x = s.x := rfl
@[simp] theorem endInstr_y : s.endInstr.y = s.y := rfl
@[simp] theorem endInstr_sp : s.endInstr.sp = s.sp := rfl
@[simp] theorem endInstr_pc : s.endInstr.pc = s.pc := rfl
@[simp] theorem endInstr_p : s.endInstr.p = writeFlag s.p .u true := rfl
@[simp] theorem endInstr_addrAbs : s.endInstr.addrAbs = s.addrAbs := rfl
@[simp] theorem endInstr_addrRel : s.endInstr.addrRel = s.addrRel := rfl
@[simp] theorem endInstr_opcode : s.endInstr.opcode = s.opcode := rfl
@[simp] theorem endInstr_accMode : s.endInstr.accMode = s.accMode := rfl
@[simp] theorem endInstr_cycles : s.endInstr.cycles = s.cycles := rfl
@[simp] theorem endInstr_mem : s.endInstr.mem = s.mem := rfl
end

section
variable (s : State)
@[simp] theorem fetch8_a : s.fetch8.2.a = s.a := rfl
@[simp] theorem fetch8_x : s.fetch8.2.x = s.x := rfl
@[simp] theorem fetch8_y : s.fetch8.2.y = s.y := rfl
@[simp] theorem fetch8_sp : s.fetch8.2.sp = s.sp := rfl
@[simp] theorem fetch8_pc : s.fetch8.2.pc = s.pc + 1 := rfl
@[simp] theorem fetch8_p : s.fetch8.2.p = s.p := rfl
@[simp] theorem fetch8_addrAbs : s.fetch8.2.addrAbs = s.addrAbs := rfl
@[simp] theorem fetch8_addrRel : s.fetch8.2.addrRel = s.addrRel := rfl
@[simp] theorem fetch8_opcode : s.fetch8.2.opcode = s.opcode := rfl
@[simp] theorem fetch8_accMode : s.fetch8.2.accMode = s.accMode := rfl
@[simp] theorem fetch8_cycles : s.fetch8.2.cycles = s.cycles := rfl
@[simp] theorem fetch8_mem : s.fetch8.2.mem = s.mem := rfl
end

section
variable (s : State)
@[simp] theorem beginInstr_a : s.beginInstr.a = s.a := rfl
@[simp] theorem beginInstr_x : s.beginInstr.x = s.x := rfl
@[simp] theorem beginInstr_y : s.beginInstr.y = s.y := rfl
@[simp] theorem beginInstr_sp : s.beginInstr.sp = s.sp := rfl
@[simp] theorem beginInstr_pc : s.beginInstr.pc = s.pc + 1 := rfl
@[simp] theorem beginInstr_p : s.beginInstr.p = writeFlag s.p .u true := rfl
@[simp] theorem beginInstr_addrAbs : s.beginInstr.addrAbs = s.addrAbs := rfl
@[simp] theorem beginInstr_addrRel : s.beginInstr.addrRel = s.addrRel := rfl
@[simp] theorem beginInstr_opcode : s.beginInstr.opcode = s.mem.read s.pc := rfl
@[simp] theorem beginInstr_accMode : s.beginInstr.accMode = false := rfl
@[simp] theorem beginInstr_cycles : s.beginInstr.cycles = s.cycles := rfl
@[simp] theorem beginInstr_mem : s.beginInstr.mem = s.mem := rfl
end

section
variable (s : State) (v : Byte)
@[simp] theorem push_a : (s.push v).a = s.a := rfl
@[simp] theorem push_x : (s.push v).x = s.x := rfl
@[simp] theorem push_y : (s.push v).y = s.y := rfl
@[simp] theorem push_sp : (s.push v).sp = s.sp - 1 := rfl
@[simp] theorem push_pc : (s.push v).pc = s.pc := rfl
@[simp] theorem push_p : (s.push v).p = s.p := rfl
@[simp] theorem push_addrAbs : (s.push v).addrAbs = s.addrAbs := rfl
@[simp] theorem push_addrRel : (s.push v).addrRel = s.addrRel := rfl
@[simp] theorem push_opcode : (s.push v).opcode = s.opcode := rfl
@[simp] theorem push_accMode : (s.push v).accMode = s.accMode := rfl
@[simp] theorem push_cycles : (s.push v).cycles = s.cycles := rfl
@[simp] theorem push_mem : (s.push v).mem = s.mem.write (stackAddr s.sp) v := rfl
end

section
variable (s : State)
@[simp] theorem pull_a : s.pull.2.a = s.a := rfl
@[simp] theorem pull_x : s.pull.2.x = s.x := rfl
@[simp] theorem pull_y : s.pull.2.y = s.y := rfl
@[simp] theorem pull_sp : s.pull.2.sp = s.sp + 1 := rfl
@[simp] theorem pull_pc : s.pull.2.pc = s.pc := rfl
@[simp] theorem pull_p : s.pull.2.p = s.p := rfl
@[simp] theorem pull_addrAbs : s.pull.2.addrAbs = s.addrAbs := rfl
@[simp] theorem pull_addrRel : s.pull.2.addrRel = s.addrRel := rfl
@[simp] theorem pull_opcode : s.pull.2.opcode = s.opcode := rfl
@[simp] theorem pull_accMode : s.pull.2.accMode = s.accMode := rfl
@[simp] theorem pull_cycles : s.pull.2.cycles = s.cycles := rfl
@[simp] theorem pull_mem : s.pull.2.mem = s.mem := rfl
end

section
variable (s : State) (w : Addr)
@[simp] theorem pushWord_a : (s.pushWord w).a = s.a := rfl
@[simp] theorem pushWord_x : (s.pushWord w).x = s.x := rfl
@[simp] theorem pushWord_y : (s.pushWord w).y = s.y := rfl
@[simp] theorem pushWord_sp : (s.pushWord w).sp = s.sp - 1 - 1 := rfl
@[simp] theorem pushWord_pc : (s.pushWord w).pc = s.pc := rfl
@[simp] theorem pushWord_p : (s.pushWord w).p = s.p := rfl
@[simp] theorem pushWord_addrAbs : (s.pushWord w).addrAbs = s.addrAbs := rfl
@[simp] theorem pushWord_addrRel : (s.pushWord w).addrRel = s.addrRel := rfl
@[simp] theorem pushWord_opcode : (s.pushWord w).opcode = s.opcode := rfl
@[simp] theorem pushWord_accMode : (s.pushWord w).accMode = s.accMode := rfl
@[simp] theorem pushWord_cycles : (s.pushWord w).cycles = s.cycles := rfl
@[simp] theorem pushWord_mem : (s.pushWord w).mem = (s.mem.write (stackAddr s.sp) (hi8 w)).write (stackAddr (s.sp - 1)) (lo8 w) := rfl
end

section
variable (s : State)
@[simp] theorem pullWord_a : s.pullWord.2.a = s.a := rfl
@[simp] theorem pullWord_x : s.pullWord.2.x = s.x := rfl
@[simp] theorem pullWord_y : s.pullWord.2.y = s.y := rfl
@[simp] theorem pullWord_sp : s.pullWord.2.sp = s.sp + 1 + 1 := rfl
@[simp] theorem pullWord_pc : s.pullWord.2.pc = s.pc := rfl
@[simp] theorem pullWord_p : s.pullWord.2.p = s.p := rfl
@[simp] theorem pullWord_addrAbs : s.pullWord.2.addrAbs = s.addrAbs := rfl
@[simp] theorem pullWord_addrRel : s.pullWord.2.addrRel = s.addrRel := rfl
@[simp] theorem pullWord_opcode : s.pullWord.2.opcode = s.opcode := rfl
@[simp] theorem pullWord_accMode : s.pullWord.2.accMode = s.accMode := rfl
@[simp] theorem pullWord_cycles : s.pullWord.2.cycles = s.cycles := rfl
@[simp] theorem pullWord_mem : s.pullWord.2.mem = s.mem := rfl
end

section
variable (s : State) (v : Byte)
@[simp] theorem storeByte_a : (s.storeByte v).a = s.a := rfl
@[simp] theorem storeByte_x : (s.storeByte v).x = s.x := rfl
@[simp] theorem storeByte_y : (s.storeByte v).y = s.y := rfl
@[simp] theorem storeByte_sp : (s.storeByte v).sp = s.sp := rfl
@[simp] theorem storeByte_pc : (s.storeByte v).pc = s.pc := rfl
@[simp] theorem storeByte_p : (s.storeByte v).p = s.p := rfl
@[simp] theorem storeByte_addrAbs : (s.storeByte v).addrAbs = s.addrAbs := rfl
@[simp] theorem storeByte_addrRel : (s.storeByte v).addrRel = s.addrRel := rfl
@[simp] theorem storeByte_opcode : (s.storeByte v).opcode = s.opcode := rfl
@[simp] theorem storeByte_accMode : (s.storeByte v).accMode = s.accMode := rfl
@[simp] theorem storeByte_cycles : (s.storeByte v).cycles = s.cycles := rfl
@[simp] theorem storeByte_mem : (s.storeByte v).mem = s.mem.write s.addrAbs v := rfl
end

section
variable (s : State) (v : Byte)
@[simp] theorem writeBack_a : (s.writeBack v).a = if s.accMode then v else s.a := by unfold State.writeBack; split <;> rfl
@[simp] theorem writeBack_x : (s.writeBack v).x = s.x := by unfold State.writeBack; split <;> rfl
@[simp] theorem writeBack_y : (s.writeBack v).y = s.y := by unfold State.writeBack; split <;> rfl
@[simp] theorem writeBack_sp : (s.writeBack v).sp = s.sp := by unfold State.writeBack; split <;> rfl
@[simp] theorem writeBack_pc : (s.writeBack v).pc = s.pc := by unfold State.writeBack; split <;> rfl
@[simp] theorem writeBack_p : (s.writeBack v).p = s.p := by unfold State.writeBack; split <;> rfl
@[simp] theorem writeBack_addrAbs : (s.writeBack v).addrAbs = s.addrAbs := by unfold State.writeBack; split <;> rfl
@[simp] theorem writeBack_addrRel : (s.writeBack v).addrRel = s.addrRel := by unfold State.writeBack; split <;> rfl
@[simp] theorem writeBack_opcode : (s.writeBack v).opcode = s.opcode := by unfold State.writeBack; split <;> rfl
@[simp] theorem writeBack_accMode : (s.writeBack v).accMode = s.accMode := by unfold State.writeBack; split <;> rfl
@[simp] theorem writeBack_cycles : (s.writeBack v).cycles = s.cycles := by unfold State.writeBack; split <;> rfl
@[simp] theorem writeBack_mem : (s.writeBack v).mem = if s.accMode then s.mem else s.mem.write s.addrAbs v := by unfold State.writeBack; split <;> rfl
end

section
variable (s : State) (f : Form)
@[simp] theorem resolve_a : (resolve f s).a = s.a := rfl
@[simp] theorem resolve_x : (resolve f s).x = s.x := rfl
@[simp] theorem resolve_y : (resolve f s).y = s.y := rfl
@[simp] theorem resolve_sp : (resolve f s).sp = s.sp := rfl
@[simp] theorem resolve_pc : (resolve f s).pc = s.pc + BitVec.ofNat 16 f.mode.operandBytes := rfl
@[simp] theorem resolve_p : (resolve f s).p = s.p := rfl
@[simp] theorem resolve_addrAbs : (resolve f s).addrAbs = effectiveAddress f s := rfl
@[simp] theorem resolve_addrRel : (resolve f s).addrRel = relativeOffset f s := rfl
@[simp] theorem resolve_opcode : (resolve f s).opcode = s.opcode := rfl
@[simp] theorem resolve_accMode : (resolve f s).accMode = (s.accMode || decide (f.mode = .imp)) := rfl
@[simp] theorem resolve_cycles : (resolve f s).cycles = s.cycles := rfl
@[simp] theorem resolve_mem : (resolve f s).mem = s.mem := rfl
end

section
variable (s : State)
@[simp] theorem takeTrap_a : s.takeTrap.a = s.a := by simp [State.takeTrap]
@[simp] theorem takeTrap_x : s.takeTrap.x = s.x := by simp [State.takeTrap]
@[simp] theorem takeTrap_y : s.takeTrap.y = s.y := by simp [State.takeTrap]
@[simp] theorem takeTrap_sp : s.takeTrap.sp = s.sp - 1 - 1 - 1 := by simp [State.takeTrap]
@[simp] theorem takeTrap_addrAbs : s.takeTrap.addrAbs = s.addrAbs := by simp [State.takeTrap]
@[simp] theorem takeTrap_addrRel : s.takeTrap.addrRel = s.addrRel := by simp [State.takeTrap]
@[simp] theorem takeTrap_opcode : s.takeTrap.opcode = s.opcode := by simp [State.takeTrap]
@[simp] theorem takeTrap_accMode : s.takeTrap.accMode = s.accMode := by simp [State.takeTrap]
@[simp] theorem takeTrap_cycles : s.takeTrap.cycles = s.cycles := by simp [State.takeTrap]
end

section
variable (s : State)
@[simp] theorem returnFromTrap_a : s.returnFromTrap.a = s.a := by simp [State.returnFromTrap]
@[simp] theorem returnFromTrap_x : s.returnFromTrap.x = s.x := by simp [State.returnFromTrap]
@[simp] theorem returnFromTrap_y : s.returnFromTrap.y = s.y := by simp [State.returnFromTrap]
@[simp] theorem returnFromTrap_sp : s.returnFromTrap.sp = s.sp + 1 + 1 + 1 := by simp [State.returnFromTrap]
@[simp] theorem returnFromTrap_addrAbs : s.returnFromTrap.addrAbs = s.addrAbs := by simp [State.returnFromTrap]
@[simp] theorem returnFromTrap_addrRel : s.returnFromTrap.addrRel = s.addrRel := by simp [State.returnFromTrap]
@[simp] theorem returnFromTrap_opcode : s.returnFromTrap.opcode = s.opcode := by simp [State.returnFromTrap]
@[simp] theorem returnFromTrap_accMode : s.returnFromTrap.accMode = s.accMode := by simp [State.returnFromTrap]
@[simp] theorem returnFromTrap_cycles : s.returnFromTrap.cycles = s.cycles := by simp [State.returnFromTrap]
@[simp] theorem returnFromTrap_mem : s.returnFromTrap.mem = s.mem := by simp [State.returnFromTrap]
end

section
variable (s : State)
@[simp] theorem activateReset_a : s.activateReset.a = 0x00#8 := rfl
@[simp] theorem activateReset_x : s.activateReset.x = 0x00#8 := rfl
@[simp] theorem activateReset_y : s.activateReset.y = 0x00#8 := rfl
@[simp] theorem activateReset_sp : s.activateReset.sp = Config.resetSp := rfl
@[simp] theorem activateReset_pc : s.activateReset.pc = s.mem.readWord Config.resetVector (Config.resetVector + 1) := rfl
@[simp] theorem activateReset_p : s.activateReset.p = Config.resetP := rfl
@[simp] theorem activateReset_addrAbs : s.activateReset.addrAbs = 0x0000#16 := rfl
@[simp] theorem activateReset_addrRel : s.activateReset.addrRel = 0x0000#16 := rfl
@[simp] theorem activateReset_opcode : s.activateReset.opcode = s.opcode := rfl
@[simp] theorem activateReset_accMode : s.activateReset.accMode = s.accMode := rfl
@[simp] theorem activateReset_cycles : s.activateReset.cycles = Config.resetLatency := rfl
@[simp] theorem activateReset_mem : s.activateReset.mem = s.mem := rfl
end

section
variable (s : State) (addr : Addr) (v : Byte)
@[simp] theorem hostWrite_a : (s.hostWrite addr v).a = s.a := rfl
@[simp] theorem hostWrite_x : (s.hostWrite addr v).x = s.x := rfl
@[simp] theorem hostWrite_y : (s.hostWrite addr v).y = s.y := rfl
@[simp] theorem hostWrite_sp : (s.hostWrite addr v).sp = s.sp := rfl
@[simp] theorem hostWrite_pc : (s.hostWrite addr v).pc = s.pc := rfl
@[simp] theorem hostWrite_p : (s.hostWrite addr v).p = s.p := rfl
@[simp] theorem hostWrite_addrAbs : (s.hostWrite addr v).addrAbs = s.addrAbs := rfl
@[simp] theorem hostWrite_addrRel : (s.hostWrite addr v).addrRel = s.addrRel := rfl
@[simp] theorem hostWrite_opcode : (s.hostWrite addr v).opcode = s.opcode := rfl
@[simp] theorem hostWrite_accMode : (s.hostWrite addr v).accMode = s.accMode := rfl
@[simp] theorem hostWrite_cycles : (s.hostWrite addr v).cycles = s.cycles := rfl
@[simp] theorem hostWrite_mem : (s.hostWrite addr v).mem = s.mem.write addr v := rfl
end

end Sys2Proof.Machine
end

