-- ==== Sys2Proof/Laws/Operands.lean ====
section
/-! SUPPORT. What the resolvers, the stack operations, the trap and the shared shapes of the meanings do: one lemma for each. -/

namespace Sys2Proof

open Machine

@[simp] theorem Form.mode_eq_imp (f : Form) : f.mode = .imp ↔ f = .imp := by cases f <;> simp [Form.mode]

theorem stackAddr_toNat (sp : Byte) : (stackAddr sp).toNat = 0x0100 + sp.toNat := by
  simp [stackAddr, word_toNat, Config.stackPage]

theorem stackAddr_inj {p q : Byte} : stackAddr p = stackAddr q ↔ p = q := by
  constructor
  · intro h
    have := congrArg BitVec.toNat h
    rw [stackAddr_toNat, stackAddr_toNat] at this
    exact BitVec.eq_of_toNat_eq (by omega)
  · rintro rfl; rfl

/-- The BRK vector lies outside the stack page. -/
theorem stackAddr_ne_vector (sp : Byte) : Config.brkVector ≠ stackAddr sp ∧ Config.brkVector + 1 ≠ stackAddr sp := by
  have := sp.isLt
  constructor <;> intro h <;> have h := congrArg BitVec.toNat h <;> rw [stackAddr_toNat] at h <;>
    simp [Config.brkVector] at h <;> omega

theorem flag_eq_of_p {s t : State} (h : s.p = t.p) (g : Flag) : s.flag g = t.flag g := by simp [State.flag, h]

@[simp] theorem flag_mk (a x y sp p : Byte) (pc ab ar : Addr) (op : Byte) (am : Bool) (n : Nat) (m : Memory) (g : Flag) :
    State.flag ⟨a, x, y, sp, pc, p, ab, ar, op, am, n, m⟩ g = readFlag p g := rfl

@[simp] theorem readFlag_p (s : State) (g : Flag) : readFlag s.p g = s.flag g := rfl

@[simp] theorem flag_resolve (f : Form) (s : State) (g : Flag) : (resolve f s).flag g = s.flag g := rfl
@[simp] theorem flag_armCycles (s : State) (n : Nat) (g : Flag) : (s.armCycles n).flag g = s.flag g := rfl
@[simp] theorem flag_push (s : State) (v : Byte) (g : Flag) : (s.push v).flag g = s.flag g := rfl
@[simp] theorem flag_pull (s : State) (g : Flag) : s.pull.2.flag g = s.flag g := rfl
@[simp] theorem flag_pushWord (s : State) (w : Addr) (g : Flag) : (s.pushWord w).flag g = s.flag g := rfl
@[simp] theorem flag_pullWord (s : State) (g : Flag) : s.pullWord.2.flag g = s.flag g := rfl
@[simp] theorem flag_storeByte (s : State) (v : Byte) (g : Flag) : (s.storeByte v).flag g = s.flag g := rfl
@[simp] theorem flag_countDown (s : State) (g : Flag) : s.countDown.flag g = s.flag g := rfl
@[simp] theorem flag_writeBack (s : State) (v : Byte) (g : Flag) : (s.writeBack v).flag g = s.flag g :=
  flag_eq_of_p (writeBack_p s v) g

@[simp] theorem pull_fst (s : State) : s.pull.1 = s.mem.read (stackAddr (s.sp + 1)) := rfl
@[simp] theorem pullWord_fst (s : State) :
    s.pullWord.1 = word (s.mem.read (stackAddr (s.sp + 1 + 1))) (s.mem.read (stackAddr (s.sp + 1))) := rfl

theorem perform_next (i : Instr) (s : State) (body : State → State) :
    perform i s body = .next ((body (resolve i.form s)).armCycles (cycleTotal i 0 s)) := rfl

/-- A frame from what the semantics leaves alone; the resolver and the cycle total are accounted for here. -/
theorem frame_of_body {i : Instr} {s t : State} {n : Nat} {regs : List Reg} {flags : List Flag} {stored : List Addr}
    (hr : ∀ r, r ∉ regs → t.reg r = (resolve i.form s).reg r)
    (hf : ∀ g, g ∉ flags → t.flag g = (resolve i.form s).flag g)
    (hm : ∀ a, a ∉ stored → t.mem.read a = (resolve i.form s).mem.read a)
    (ho : t.opcode = (resolve i.form s).opcode) (ha : t.addrAbs = (resolve i.form s).addrAbs)
    (hl : t.addrRel = (resolve i.form s).addrRel) (hc : t.accMode = (resolve i.form s).accMode) :
    Frame i regs flags stored n s (t.armCycles (cycleTotal i n s)) where
  regs_kept r h := by rw [← show (resolve i.form s).reg r = s.reg r by cases r <;> rfl, ← hr r h]; cases r <;> rfl
  flags_kept g h := hf g h
  memory_kept a h := hm a h
  opcode_kept := ho
  addr_abs := ha
  addr_rel := hl
  acc_mode := by simp [hc]
  cycles_armed := rfl

/-- The penalty of a taken branch, by the pages of the target and of the next instruction. -/
theorem branchPenalty_taken (t : State) :
    branchPenalty t true = if (t.pc + t.addrRel).toNat / 256 = t.pc.toNat / 256 then 1 else 2 := by
  have h := hi8_bne (t.pc + t.addrRel) t.pc
  by_cases hp : (t.pc + t.addrRel).toNat / 256 = t.pc.toNat / 256
  · rw [if_pos hp, branchPenalty, if_pos rfl, Bool.eq_false_iff.mpr fun hb => h.mp hb hp]; rfl
  · rw [if_neg hp, branchPenalty, if_pos rfl, h.mpr hp]; rfl

@[simp] theorem branchPenalty_not_taken (t : State) : branchPenalty t false = 0 := rfl

/-! ## Stack addresses -/

theorem stackAddr_ne_sub1 (b : Byte) : stackAddr b ≠ stackAddr (b - 1#8) := by rw [ne_eq, stackAddr_inj]; bv_omega
theorem stackAddr_ne_sub2 (b : Byte) : stackAddr b ≠ stackAddr (b - 2#8) := by rw [ne_eq, stackAddr_inj]; bv_omega
theorem stackAddr_sub1_ne_sub2 (b : Byte) : stackAddr (b - 1#8) ≠ stackAddr (b - 2#8) := by
  rw [ne_eq, stackAddr_inj]; bv_omega
theorem byte_sub_one_one (b : Byte) : b - 1#8 - 1#8 = b - 2#8 := by bv_omega
theorem byte_sub_two_one (b : Byte) : b - 2#8 - 1#8 = b - 3#8 := by bv_omega
theorem byte_add_one_one (b : Byte) : b + 1#8 + 1#8 = b + 2#8 := by bv_omega
theorem byte_add_two_one (b : Byte) : b + 2#8 + 1#8 = b + 3#8 := by bv_omega

/-! ## The trap -/

/-- The three bytes the trap pushes. -/
theorem takeTrap_mem (s : State) :
    s.takeTrap.mem =
      ((s.mem.write (stackAddr s.sp) (hi8 (s.pc + 1))).write (stackAddr (s.sp - 1)) (lo8 (s.pc + 1))).write
        (stackAddr (s.sp - 1 - 1)) (writeFlag (writeFlag s.p .i true) .b true) := by
  simp [State.takeTrap]

theorem takeTrap_flag (s : State) (g : Flag) :
    s.takeTrap.flag g = if g = .b then false else if g = .i then true else s.flag g := by
  simp [State.takeTrap, readFlag_writeFlag]
  cases g <;> simp

/-- The pushes cannot reach the vector. -/
theorem takeTrap_pc (s : State) : s.takeTrap.pc = s.mem.readWord Config.brkVector (Config.brkVector + 1) := by
  have h0 : ∀ sp, Config.brkVector ≠ stackAddr sp := fun sp => (stackAddr_ne_vector sp).1
  have h1 : ∀ sp, Config.brkVector + 1#16 ≠ stackAddr sp := fun sp => (stackAddr_ne_vector sp).2
  simp [State.takeTrap, Memory.readWord, Memory.read_write, h0, h1]

theorem returnFromTrap_flag (s : State) (g : Flag) :
    s.returnFromTrap.flag g = (readFlag (s.mem.read (stackAddr (s.sp + 1))) g && decide (g ∉ [Flag.b, .u])) := by
  simp [State.returnFromTrap, readFlag_writeFlag]
  cases g <;> simp

theorem returnFromTrap_pc (s : State) :
    s.returnFromTrap.pc =
      word (s.mem.read (stackAddr (s.sp + 1 + 1 + 1))) (s.mem.read (stackAddr (s.sp + 1 + 1))) := by
  simp [State.returnFromTrap]

end Sys2Proof
end

