-- ==== Sys2Proof/Laws/Exec.lean ====
section
/-! SUPPORT. What every instruction does alike, and what a clock step does in each state of the sequencer: the lemmas that
stand for unfolding `exec` and `step`. -/

namespace Sys2Proof

open Machine

/-! ## Every memory write keeps the canonical form -/

theorem wf_push {s : State} (h : s.mem.wf = true) (v : Byte) : (s.push v).mem.wf = true := Memory.wf_write h _ _

theorem wf_pushWord {s : State} (h : s.mem.wf = true) (w : Addr) : (s.pushWord w).mem.wf = true :=
  wf_push (wf_push h _) _

theorem wf_storeByte {s : State} (h : s.mem.wf = true) (v : Byte) : (s.storeByte v).mem.wf = true :=
  Memory.wf_write h _ _

theorem wf_writeBack {s : State} (h : s.mem.wf = true) (v : Byte) : (s.writeBack v).mem.wf = true := by
  unfold State.writeBack
  split
  · exact h
  · exact Memory.wf_write h _ _

theorem wf_takeTrap {s : State} (h : s.mem.wf = true) : s.takeTrap.mem.wf = true := by
  rw [takeTrap_mem]
  exact Memory.wf_write (Memory.wf_write (Memory.wf_write h _ _) _ _) _ _

/-! ## Every instruction -/

/-- What the instruction in `i` leaves of its resolver's work, before the counter is armed. -/
structure Body (i : Instr) (s t : State) : Prop where
  opcode : t.opcode = s.opcode
  addrAbs : t.addrAbs = effectiveAddress i.form s
  addrRel : t.addrRel = relativeOffset i.form s
  accMode : t.accMode = (resolve i.form s).accMode
  wf : s.mem.wf = true → t.mem.wf = true

/-- Every instruction answers a next state: its body on the resolved state, then the counter armed with the total, whose
penalty is at most 2, and 0 but for the branches. -/
theorem exec_cases (i : Instr) (s : State) :
    ∃ t n, exec i s = .next (t.armCycles (cycleTotal i n s)) ∧ Body i s t ∧ n ≤ 2 ∧
      (n ≠ 0 → ∃ o, i.form = .rel o) := by
  have branch : ∀ (j : Instr) (o : Byte) (g : Flag) (v : Bool), j.form = .rel o →
      ∃ t n, performBranch j g v s = .next (t.armCycles (cycleTotal j n s)) ∧ Body j s t ∧ n ≤ 2 ∧
        (n ≠ 0 → ∃ o, j.form = .rel o) := by
    intro j o g v hj
    refine ⟨_, _, rfl, ⟨rfl, rfl, rfl, rfl, id⟩, ?_, fun _ => ⟨o, hj⟩⟩
    unfold branchPenalty
    split
    · have := Bool.toNat_le
        (hi8 ((resolve j.form s).pc + (resolve j.form s).addrRel) != hi8 (resolve j.form s).pc)
      omega
    · omega
  cases i
  case bcc o => exact branch (.bcc o) o _ _ rfl
  case bcs o => exact branch (.bcs o) o _ _ rfl
  case beq o => exact branch (.beq o) o _ _ rfl
  case bne o => exact branch (.bne o) o _ _ rfl
  case bmi o => exact branch (.bmi o) o _ _ rfl
  case bpl o => exact branch (.bpl o) o _ _ rfl
  case bvc o => exact branch (.bvc o) o _ _ rfl
  case bvs o => exact branch (.bvs o) o _ _ rfl
  case brk =>
    exact ⟨_, 0, rfl, ⟨by simp, by simp, by simp, by simp, fun h => wf_takeTrap (by simpa using h)⟩, by omega,
      fun h => absurd rfl h⟩
  case rti =>
    exact ⟨_, 0, rfl, ⟨by simp, by simp, by simp, by simp, fun h => by simpa using h⟩, by omega,
      fun h => absurd rfl h⟩
  case asl | lsr | rol | ror =>
    exact ⟨_, 0, rfl, ⟨by simp, by simp, by simp, by simp, fun h => wf_writeBack (by simpa using h) _⟩, by omega,
      fun h => absurd rfl h⟩
  case jsr =>
    exact ⟨_, 0, rfl, ⟨rfl, rfl, rfl, rfl, fun h => wf_pushWord (by simpa using h) _⟩, by omega,
      fun h => absurd rfl h⟩
  case pha | php =>
    exact ⟨_, 0, rfl, ⟨rfl, rfl, rfl, rfl, fun h => wf_push (by simpa using h) _⟩, by omega,
      fun h => absurd rfl h⟩
  case sta | stx | sty =>
    exact ⟨_, 0, rfl, ⟨rfl, rfl, rfl, rfl, fun h => wf_storeByte (by simpa using h) _⟩, by omega,
      fun h => absurd rfl h⟩
  case inc | dec =>
    exact ⟨_, 0, rfl, ⟨rfl, rfl, rfl, rfl, fun h => wf_storeByte (by simpa using h) _⟩, by omega,
      fun h => absurd rfl h⟩
  all_goals exact ⟨_, 0, rfl, ⟨rfl, rfl, rfl, rfl, id⟩, by omega, fun h => absurd rfl h⟩

/-- What a write-back stores: one byte, or none in accumulator mode. -/
theorem writeBack_stores (t : State) (v : Byte) :
    (t.writeBack v).mem = writeAll t.mem (if t.accMode then [] else [(t.addrAbs, v)]) := by
  unfold State.writeBack; split <;> rfl

/-- What every instruction makes of memory: exactly the bytes of `storedBytes` are stored. -/
theorem exec_mem (i : Instr) (s : State) :
    ∃ t, exec i s = .next t ∧ t.mem = writeAll s.mem (storedBytes i s) := by
  cases i
  case asl f => exact ⟨_, rfl, (writeBack_stores _ _).trans (by rw [shiftLeft_value]; rfl)⟩
  case lsr f => exact ⟨_, rfl, (writeBack_stores _ _).trans (by rw [shiftRight_value]; rfl)⟩
  case rol f => exact ⟨_, rfl, (writeBack_stores _ _).trans (by rw [rotateLeft_value]; rfl)⟩
  case ror f => exact ⟨_, rfl, (writeBack_stores _ _).trans (by rw [rotateRight_value]; rfl)⟩
  case inc f | dec f =>
    refine ⟨_, rfl, congrArg (s.mem.write (effectiveAddress f s)) (BitVec.eq_of_toNat_eq ?_)⟩
    simp [operandOf, Instr.form, BitVec.toNat_add, BitVec.toNat_sub]
    try omega
  case brk =>
    exact ⟨_, rfl, by
      simp [takeTrap_mem, storedBytes, writeAll, byte_sub_one_one, Instr.form, Form.mode, Mode.operandBytes]⟩
  case jsr =>
    exact ⟨_, rfl, by
      simp [storedBytes, writeAll, Instr.form, Form.mode, Mode.operandBytes, show s.pc + 2#16 - 1#16 = s.pc + 1#16 by bv_omega]⟩
  case php => exact ⟨_, rfl, by simp only [armCycles_mem, setFlag_mem, push_mem]; rfl⟩
  case rti | plp | bit => exact ⟨_, rfl, by simp [storedBytes, writeAll]⟩
  all_goals exact ⟨_, rfl, rfl⟩

/-! ## The clock step -/

/-- A counting step. -/
theorem step_counting {s : State} (h : 0 < s.cycles) : step s = .next { s with cycles := s.cycles - 1 } := by
  rw [step, clock, if_neg (by omega)]; rfl

/-- A working step, from the answer of the instruction. -/
theorem step_working {s t : State} (h : s.cycles = 0) (he : exec s.fetchInstr s.beginInstr = .next t) :
    step s = .next t.endInstr.countDown := by
  rw [step, clock, if_pos h, runInstr, he]; rfl

/-- The total of the instruction a working step runs. -/
theorem instrTotal_of_exec {s t : State} (he : exec s.fetchInstr s.beginInstr = .next t) : instrTotal s = t.cycles := by
  rw [instrTotal, runInstr, he]; rfl

/-- A run of no step. -/
theorem run_zero {s t : State} : core.run 0 s = .next t ↔ t = s :=
  ⟨fun h => by injection h with h; exact h.symm, fun h => by rw [h]; rfl⟩

/-- A run after one step. -/
theorem run_succ {s t : State} (k : Nat) (h : step s = .next t) : core.run (k + 1) s = core.run k t := by
  have h1 : core.step s = .next t := h
  have h2 := Host.Core.run.eq_2 core s k
  rw [h1] at h2
  exact h2

/-- Counting `k` steps down. -/
theorem run_counting : ∀ (k : Nat) (s : State), k ≤ s.cycles →
    core.run k s = .next { s with cycles := s.cycles - k }
  | 0, _, _ => rfl
  | k + 1, s, h => by
    rw [run_succ k (step_counting (by omega))]
    rw [run_counting k _ (by show k ≤ s.cycles - 1; omega)]
    show Host.Outcome.next { s with cycles := s.cycles - 1 - k } = _
    rw [show s.cycles - 1 - k = s.cycles - (k + 1) by omega]
    rfl

/-- From Idle, as many steps as the instruction's total lead to the state after the instruction, Idle again. -/
theorem run_working {s t : State} (h : s.cycles = 0) (he : exec s.fetchInstr s.beginInstr = .next t) (ht : 0 < t.cycles) :
    core.run t.cycles s = .next { t.endInstr with cycles := 0 } := by
  obtain ⟨k, hk⟩ : ∃ k, t.cycles = k + 1 := ⟨t.cycles - 1, by omega⟩
  rw [hk, run_succ k (step_working h he), run_counting _ _ (by simp; omega)]
  simp [show t.cycles - 1 - k = 0 by omega]

/-- The bytes a fetch reads, and what it leaves. -/
theorem fetchInstr_eq (s : State) :
    s.fetchInstr = decodeBytes (s.mem.read s.pc) (s.mem.read (s.pc + 1)) (s.mem.read (s.pc + 2)) := by
  rw [show s.pc + 2 = s.pc + 1 + 1 by bv_omega]; rfl

theorem beginInstr_eq (s : State) :
    s.beginInstr =
      { s with opcode := s.mem.read s.pc, pc := s.pc + 1, p := writeFlag s.p .u true, accMode := false } := rfl

end Sys2Proof
end

