-- ==== Sys2Proof/Laws/PerInstr.lean ====
section
/-! SUPPORT. The statements made constructor by constructor. Family `EncodingLength`: a well-formed instruction encodes to
as many bytes as its length says, from one to three (30_encoding.md R60, R61). -/

namespace Sys2Proof.Laws.EncodingLength

open Machine

/-- The statement of the family. -/
def Statement (i : Instr) : Prop :=
  i.wellFormed = true → (encode i).length = i.length ∧ 1 ≤ i.length ∧ i.length ≤ 3

theorem of_opcodeByte {i : Instr} (h : i.wellFormed = true → ∃ op, opcodeByte i = some op) : Statement i := by
  intro hw
  obtain ⟨op, ho⟩ := h hw
  have h2 : i.form.mode.operandBytes ≤ 2 := by cases i.form.mode <;> decide
  rw [encode_of_opcodeByte ho, List.length_cons, Form.bytes_length, Instr.length]
  omega

theorem of_row {i : Instr} (hw : i.wellFormed = formAllowed i.mnemonic i.form)
    (ho : opcodeByte i = (documentedRow i.mnemonic i.form.mode).map fun r => r.1) : Statement i := by
  apply of_opcodeByte
  rw [hw, ho]
  intro h
  obtain ⟨r, hr⟩ := documentedRow_isSome h
  exact ⟨r.1, by rw [hr]; rfl⟩

theorem adc (f : Form) : Statement (.adc f) := of_row rfl rfl
theorem sbc (f : Form) : Statement (.sbc f) := of_row rfl rfl
theorem asl (f : Form) : Statement (.asl f) := of_row rfl rfl
theorem lsr (f : Form) : Statement (.lsr f) := of_row rfl rfl
theorem rol (f : Form) : Statement (.rol f) := of_row rfl rfl
theorem ror (f : Form) : Statement (.ror f) := of_row rfl rfl
theorem cmp (f : Form) : Statement (.cmp f) := of_row rfl rfl
theorem cpx (f : Form) : Statement (.cpx f) := of_row rfl rfl
theorem cpy (f : Form) : Statement (.cpy f) := of_row rfl rfl
theorem bcc (o : Byte) : Statement (.bcc o) := of_row rfl rfl
theorem bcs (o : Byte) : Statement (.bcs o) := of_row rfl rfl
theorem beq (o : Byte) : Statement (.beq o) := of_row rfl rfl
theorem bne (o : Byte) : Statement (.bne o) := of_row rfl rfl
theorem bmi (o : Byte) : Statement (.bmi o) := of_row rfl rfl
theorem bpl (o : Byte) : Statement (.bpl o) := of_row rfl rfl
theorem bvc (o : Byte) : Statement (.bvc o) := of_row rfl rfl
theorem bvs (o : Byte) : Statement (.bvs o) := of_row rfl rfl
theorem pha : Statement .pha := of_row rfl rfl
theorem pla : Statement .pla := of_row rfl rfl
theorem php : Statement .php := of_row rfl rfl
theorem plp : Statement .plp := of_row rfl rfl
theorem jsr (a : Addr) : Statement (.jsr a) := of_row rfl rfl
theorem rts : Statement .rts := of_row rfl rfl
theorem brk : Statement .brk := of_row rfl rfl
theorem rti : Statement .rti := of_row rfl rfl
theorem lda (f : Form) : Statement (.lda f) := of_row rfl rfl
theorem ldx (f : Form) : Statement (.ldx f) := of_row rfl rfl
theorem ldy (f : Form) : Statement (.ldy f) := of_row rfl rfl
theorem sta (f : Form) : Statement (.sta f) := of_row rfl rfl
theorem stx (f : Form) : Statement (.stx f) := of_row rfl rfl
theorem sty (f : Form) : Statement (.sty f) := of_row rfl rfl
theorem tax : Statement .tax := of_row rfl rfl
theorem tay : Statement .tay := of_row rfl rfl
theorem txa : Statement .txa := of_row rfl rfl
theorem tya : Statement .tya := of_row rfl rfl
theorem tsx : Statement .tsx := of_row rfl rfl
theorem txs : Statement .txs := of_row rfl rfl
theorem nop : Statement .nop := of_row rfl rfl
theorem and (f : Form) : Statement (.and f) := of_row rfl rfl
theorem ora (f : Form) : Statement (.ora f) := of_row rfl rfl
theorem eor (f : Form) : Statement (.eor f) := of_row rfl rfl
theorem bit (f : Form) : Statement (.bit f) := of_row rfl rfl
theorem inc (f : Form) : Statement (.inc f) := of_row rfl rfl
theorem dec (f : Form) : Statement (.dec f) := of_row rfl rfl
theorem inx : Statement .inx := of_row rfl rfl
theorem iny : Statement .iny := of_row rfl rfl
theorem dex : Statement .dex := of_row rfl rfl
theorem dey : Statement .dey := of_row rfl rfl
theorem clc : Statement .clc := of_row rfl rfl
theorem sec : Statement .sec := of_row rfl rfl
theorem cli : Statement .cli := of_row rfl rfl
theorem sei : Statement .sei := of_row rfl rfl
theorem cld : Statement .cld := of_row rfl rfl
theorem sed : Statement .sed := of_row rfl rfl
theorem clv : Statement .clv := of_row rfl rfl
theorem jmp (f : Form) : Statement (.jmp f) := of_row rfl rfl
theorem nopAlias (op : Byte) (f : Form) : Statement (.nopAlias op f) := by
  apply of_opcodeByte
  intro h
  simp only [Instr.wellFormed, aliasAllowed, List.any_eq_true, Bool.and_eq_true, beq_iff_eq] at h
  obtain ⟨r, hr, hk, ho⟩ := h
  exact ⟨op, by simp [opcodeByte, nopAliasRow_of_allowed r hr op (by simpa using ho), hk]⟩

theorem xxx (op : Byte) : Statement (.xxx op) := by
  apply of_opcodeByte
  intro h
  obtain ⟨n, hn⟩ := xxxRow_of_allowed h
  exact ⟨op, by simp [opcodeByte, hn]⟩

end Sys2Proof.Laws.EncodingLength
end

