-- ==== Sys2Proof/Tests/Slice0.lean ====
section
/-! SUPPORT. The model's own tests: ill-formed terms refused, words of 30_encoding.md decoded, single steps of
95_test_vectors.md, and a witness for every statement with a hypothesis. Expected values are the spec's. -/

namespace Sys2Proof.Tests

open Machine

/-! ## Well-formedness: each check refuses an ill-formed term -/

/-- A form the mnemonic has no row for (30_encoding.md R66). -/
theorem test_form_refused :
    (Instr.sta (.imm 0x00#8)).wellFormed = false ∧ (Instr.jmp (.zp0 0x00#8)).wellFormed = false ∧
    (Instr.ldx (.zpx 0x00#8)).wellFormed = false ∧ (Instr.inc .imp).wellFormed = false ∧
    (Instr.bit (.imm 0x00#8)).wellFormed = false ∧ (Instr.lda (.ind 0x0000#16)).wellFormed = false := by decide
/-- EA is no alias, and 04 is an alias of mode ZP0 only (30_encoding.md R68). -/
theorem test_alias_refused :
    (Instr.nopAlias 0xEA#8 .imp).wellFormed = false ∧ (Instr.nopAlias 0x04#8 (.abs 0x0000#16)).wellFormed = false := by
  decide
/-- A9 is no XXX slot (30_encoding.md R69). -/
theorem test_slot_refused : (Instr.xxx 0xA9#8).wellFormed = false := by decide
/-- A term without a row has no encoding. -/
theorem test_ill_formed_not_encoded : encode (.sta (.imm 0x00#8)) = [] ∧ encode (.xxx 0xA9#8) = [] := by decide

/-! ## Decoding: every constructor by a word written out from 30_encoding.md R66, R68, R69 -/

theorem test_decode_arithmetic :
    decode [0x71#8, 0x20#8] = .ok (.adc (.izy 0x20#8), []) ∧
    decode [0xED#8, 0x34#8, 0x12#8] = .ok (.sbc (.abs 0x1234#16), []) := ⟨rfl, rfl⟩
theorem test_decode_shift :
    decode [0x0A#8] = .ok (.asl .imp, []) ∧ decode [0x46#8, 0x20#8] = .ok (.lsr (.zp0 0x20#8), []) ∧
    decode [0x3E#8, 0x34#8, 0x12#8] = .ok (.rol (.abx 0x1234#16), []) ∧
    decode [0x76#8, 0x20#8] = .ok (.ror (.zpx 0x20#8), []) := ⟨rfl, rfl, rfl, rfl⟩
theorem test_decode_compare :
    decode [0xC1#8, 0x20#8] = .ok (.cmp (.izx 0x20#8), []) ∧ decode [0xE0#8, 0x80#8] = .ok (.cpx (.imm 0x80#8), []) ∧
    decode [0xC4#8, 0x20#8] = .ok (.cpy (.zp0 0x20#8), []) := ⟨rfl, rfl, rfl⟩
theorem test_decode_branch :
    decode [0x90#8, 0x80#8] = .ok (.bcc 0x80#8, []) ∧ decode [0xB0#8, 0x7F#8] = .ok (.bcs 0x7F#8, []) ∧
    decode [0xF0#8, 0x02#8] = .ok (.beq 0x02#8, []) ∧ decode [0xD0#8, 0xF9#8] = .ok (.bne 0xF9#8, []) ∧
    decode [0x30#8, 0x02#8] = .ok (.bmi 0x02#8, []) ∧ decode [0x10#8, 0x02#8] = .ok (.bpl 0x02#8, []) ∧
    decode [0x50#8, 0x02#8] = .ok (.bvc 0x02#8, []) ∧ decode [0x70#8, 0x02#8] = .ok (.bvs 0x02#8, []) :=
  ⟨rfl, rfl, rfl, rfl, rfl, rfl, rfl, rfl⟩
theorem test_decode_stack :
    decode [0x48#8] = .ok (.pha, []) ∧ decode [0x68#8] = .ok (.pla, []) ∧ decode [0x08#8] = .ok (.php, []) ∧
    decode [0x28#8] = .ok (.plp, []) ∧ decode [0x20#8, 0x34#8, 0x12#8] = .ok (.jsr 0x1234#16, []) ∧
    decode [0x60#8] = .ok (.rts, []) ∧ decode [0x00#8, 0xFF#8] = .ok (.brk, [0xFF#8]) ∧
    decode [0x40#8] = .ok (.rti, []) := ⟨rfl, rfl, rfl, rfl, rfl, rfl, rfl, rfl⟩
theorem test_decode_load_store :
    decode [0xB9#8, 0x34#8, 0x12#8] = .ok (.lda (.aby 0x1234#16), []) ∧
    decode [0xB6#8, 0x20#8] = .ok (.ldx (.zpy 0x20#8), []) ∧ decode [0xA0#8, 0x20#8] = .ok (.ldy (.imm 0x20#8), []) ∧
    decode [0x81#8, 0x20#8] = .ok (.sta (.izx 0x20#8), []) ∧ decode [0x96#8, 0x20#8] = .ok (.stx (.zpy 0x20#8), []) ∧
    decode [0x94#8, 0x20#8] = .ok (.sty (.zpx 0x20#8), []) := ⟨rfl, rfl, rfl, rfl, rfl, rfl⟩
theorem test_decode_transfer :
    decode [0xAA#8] = .ok (.tax, []) ∧ decode [0xA8#8] = .ok (.tay, []) ∧ decode [0x8A#8] = .ok (.txa, []) ∧
    decode [0x98#8] = .ok (.tya, []) ∧ decode [0xBA#8] = .ok (.tsx, []) ∧ decode [0x9A#8] = .ok (.txs, []) :=
  ⟨rfl, rfl, rfl, rfl, rfl, rfl⟩
theorem test_decode_nop :
    decode [0xEA#8] = .ok (.nop, []) ∧ decode [0x1A#8] = .ok (.nopAlias 0x1A#8 .imp, []) ∧
    decode [0x80#8, 0xFF#8] = .ok (.nopAlias 0x80#8 (.imm 0xFF#8), []) ∧
    decode [0xFC#8, 0x34#8, 0x12#8] = .ok (.nopAlias 0xFC#8 (.abx 0x1234#16), []) ∧
    decode [0x02#8, 0xA9#8] = .ok (.xxx 0x02#8, [0xA9#8]) := ⟨rfl, rfl, rfl, rfl, rfl⟩
theorem test_decode_logic :
    decode [0x29#8, 0x0F#8] = .ok (.and (.imm 0x0F#8), []) ∧ decode [0x11#8, 0x20#8] = .ok (.ora (.izy 0x20#8), []) ∧
    decode [0x55#8, 0x20#8] = .ok (.eor (.zpx 0x20#8), []) ∧ decode [0x2C#8, 0x34#8, 0x12#8] = .ok (.bit (.abs 0x1234#16), []) ∧
    decode [0xE6#8, 0x20#8] = .ok (.inc (.zp0 0x20#8), []) ∧ decode [0xDE#8, 0x34#8, 0x12#8] = .ok (.dec (.abx 0x1234#16), []) :=
  ⟨rfl, rfl, rfl, rfl, rfl, rfl⟩
theorem test_decode_register_and_flag :
    decode [0xE8#8] = .ok (.inx, []) ∧ decode [0xC8#8] = .ok (.iny, []) ∧ decode [0xCA#8] = .ok (.dex, []) ∧
    decode [0x88#8] = .ok (.dey, []) ∧ decode [0x18#8] = .ok (.clc, []) ∧ decode [0x38#8] = .ok (.sec, []) ∧
    decode [0x58#8] = .ok (.cli, []) ∧ decode [0x78#8] = .ok (.sei, []) ∧ decode [0xD8#8] = .ok (.cld, []) ∧
    decode [0xF8#8] = .ok (.sed, []) ∧ decode [0xB8#8] = .ok (.clv, []) :=
  ⟨rfl, rfl, rfl, rfl, rfl, rfl, rfl, rfl, rfl, rfl, rfl⟩
theorem test_decode_jump :
    decode [0x4C#8, 0x34#8, 0x12#8] = .ok (.jmp (.abs 0x1234#16), []) ∧
    decode [0x6C#8, 0xFF#8, 0xAB#8] = .ok (.jmp (.ind 0xABFF#16), []) := ⟨rfl, rfl⟩
/-- The decoder's two rejections: no opcode byte, an operand byte missing. -/
theorem test_decode_short :
    decode [] = .error .noOpcode ∧ decode [0xAD#8, 0x34#8] = .error (.operandMissing 0xAD#8) := ⟨rfl, rfl⟩
/-- Table words: the opcode byte is the least significant, missing operand bytes are 0. -/
theorem test_table_word :
    decodeTableWord 24 0x1234AD = some (.lda (.abs 0x1234#16)) ∧ decodeTableWord 8 0x1234AD = some (.lda (.abs 0x0000#16)) ∧
    decodeTableWord 8 0xEA = some .nop := by decide
/-- The word placed for the fetch runs as the first instruction after reset. -/
theorem test_fetch_word :
    (match step (State.reset.withFetchWord 16 0x42A9) with | .next t => t.a | _ => 0x00#8) = 0x42#8 ∧
    (State.reset.withFetchWord 16 0x42A9).fetchInstr = .lda (.imm 0x42#8) := by decide

/-! ## One step: vectors of 95_test_vectors.md -/

/-- The start state of the vectors: reset values, Idle, `PC` 0x8000. -/
def start : State := { State.reset with pc := 0x8000#16, cycles := 0 }

/-- Bytes laid out from an address up. -/
def bytesAt (a : Addr) : List Byte → List (Addr × Byte)
  | [] => []
  | b :: rest => (a, b) :: bytesAt (a + 1) rest

/-- One step from `s` with `code` at `PC` and `cells` in memory: A, X, Y, SP, P and PC are those of `t`, the cycle total is
`total`, and memory differs by the writes of `stored` alone. -/
def runs (code : List Byte) (cells : List (Addr × Byte)) (s t : State) (total : Nat) (stored : List (Addr × Byte)) : Bool :=
  let m := writeAll [] (cells ++ bytesAt s.pc code)
  match step { s with mem := m } with
  | .next u =>
    [u.a, u.x, u.y, u.sp, u.p] == [t.a, t.x, t.y, t.sp, t.p] && u.pc == t.pc && u.cycles + 1 == total &&
      u.mem == writeAll m stored
  | .fault _ | .refused _ => false

/-- `ADC #$01`, section 2.2, `69 01`: 250 + 1 + 0. -/
theorem test_adc_1 : runs [0x69#8, 0x01#8] [] { start with a := 0xFA#8, p := 0x20#8 }
    { start with a := 0xFB#8, p := 0xA0#8, pc := 0x8002#16 } 2 [] = true := by decide
/-- `ADC #$7F`, section 2.2, `69 7F`: 127 + 127 + 1. -/
theorem test_adc_2 : runs [0x69#8, 0x7F#8] [] { start with a := 0x7F#8, p := 0x21#8 }
    { start with a := 0xFF#8, p := 0xE0#8, pc := 0x8002#16 } 2 [] = true := by decide
/-- `SBC #$10`, section 2.2, `E9 10`: 80 - 16 - 1. -/
theorem test_sbc_1 : runs [0xE9#8, 0x10#8] [] { start with a := 0x50#8, p := 0x20#8 }
    { start with a := 0x3F#8, p := 0x21#8, pc := 0x8002#16 } 2 [] = true := by decide
/-- `SBC #$B0`, section 2.2, `E9 B0`: 80 - 176 - 0. -/
theorem test_sbc_2 : runs [0xE9#8, 0xB0#8] [] { start with a := 0x50#8, p := 0x21#8 }
    { start with a := 0xA0#8, p := 0xE0#8, pc := 0x8002#16 } 2 [] = true := by decide
/-- `ASL A`, section 2.3, `0A`: old C not shifted in. -/
theorem test_asl_1 : runs [0x0A#8] [] { start with a := 0x40#8, p := 0x21#8 }
    { start with a := 0x80#8, p := 0xA0#8, pc := 0x8001#16 } 2 [] = true := by decide
/-- `ASL $12F0,X`, section 2.3, `1E F0 12`: ABX: 7 cycles even on page cross. -/
theorem test_asl_2 : runs [0x1E#8, 0xF0#8, 0x12#8] [(0x1310#16, 0x01#8)] { start with x := 0x20#8 }
    { start with x := 0x20#8, p := 0x20#8, pc := 0x8003#16 } 7 [(0x1310#16, 0x02#8)] = true := by decide
/-- `LSR A`, section 2.3, `4A`: N cleared, Z and C set. -/
theorem test_lsr_1 : runs [0x4A#8] [] { start with a := 0x01#8, p := 0xA0#8 }
    { start with a := 0x00#8, p := 0x23#8, pc := 0x8001#16 } 2 [] = true := by decide
/-- `LSR $10,X`, section 2.3, `56 10`. -/
theorem test_lsr_2 : runs [0x56#8, 0x10#8] [(0x0015#16, 0xFF#8)] { start with x := 0x05#8 }
    { start with x := 0x05#8, p := 0x21#8, pc := 0x8002#16 } 6 [(0x0015#16, 0x7F#8)] = true := by decide
/-- `ROL A`, section 2.3, `2A`: old C enters bit 0. -/
theorem test_rol_1 : runs [0x2A#8] [] { start with a := 0x40#8, p := 0x21#8 }
    { start with a := 0x81#8, p := 0xA0#8, pc := 0x8001#16 } 2 [] = true := by decide
/-- `ROL $1234`, section 2.3, `2E 34 12`. -/
theorem test_rol_2 : runs [0x2E#8, 0x34#8, 0x12#8] [(0x1234#16, 0xFF#8)] { start with p := 0x21#8 }
    { start with p := 0xA1#8, pc := 0x8003#16 } 6 [(0x1234#16, 0xFF#8)] = true := by decide
/-- `ROR A`, section 2.3, `6A`: old C enters bit 7. -/
theorem test_ror_1 : runs [0x6A#8] [] { start with a := 0x00#8, p := 0x21#8 }
    { start with a := 0x80#8, p := 0xA0#8, pc := 0x8001#16 } 2 [] = true := by decide
/-- `ROR $10`, section 2.3, `66 10`. -/
theorem test_ror_2 : runs [0x66#8, 0x10#8] [(0x0010#16, 0x02#8)] { start with p := 0x21#8 }
    { start with p := 0xA0#8, pc := 0x8002#16 } 5 [(0x0010#16, 0x81#8)] = true := by decide
/-- `CMP #$FF`, section 2.4, `C9 FF`: r = 0x01: N clear although A < m. -/
theorem test_cmp_1 : runs [0xC9#8, 0xFF#8] [] { start with a := 0x00#8 }
    { start with a := 0x00#8, p := 0x20#8, pc := 0x8002#16 } 2 [] = true := by decide
/-- `CMP $12F0,X`, section 2.4, `DD F0 12`: page cross: 4 + 1. -/
theorem test_cmp_2 : runs [0xDD#8, 0xF0#8, 0x12#8] [(0x1310#16, 0x05#8)] { start with a := 0x05#8, x := 0x20#8 }
    { start with a := 0x05#8, x := 0x20#8, p := 0x23#8, pc := 0x8003#16 } 5 [] = true := by decide
/-- `CPX $10`, section 2.4, `E4 10`. -/
theorem test_cpx : runs [0xE4#8, 0x10#8] [(0x0010#16, 0x7F#8)] { start with x := 0x80#8 }
    { start with x := 0x80#8, p := 0x21#8, pc := 0x8002#16 } 3 [] = true := by decide
/-- `CPY $1234`, section 2.4, `CC 34 12`. -/
theorem test_cpy : runs [0xCC#8, 0x34#8, 0x12#8] [(0x1234#16, 0x05#8)] { start with y := 0x04#8 }
    { start with y := 0x04#8, p := 0xA0#8, pc := 0x8003#16 } 4 [] = true := by decide
/-- `BCC $80FF`, section 2.5, `90 FD`: taken backwards over a page boundary: 2 + 2. -/
theorem test_bcc_1 : runs [0x90#8, 0xFD#8] [] { start with pc := 0x8100#16, p := 0x20#8 }
    { start with pc := 0x80FF#16, p := 0x20#8 } 4 [] = true := by decide
/-- `BCC`, section 2.5, `90 FD`: not taken. -/
theorem test_bcc_2 : runs [0x90#8, 0xFD#8] [] { start with pc := 0x8100#16, p := 0x21#8 }
    { start with pc := 0x8102#16, p := 0x21#8 } 2 [] = true := by decide
/-- `BCS $8000`, section 2.5, `B0 FE`: branch to itself. -/
theorem test_bcs_1 : runs [0xB0#8, 0xFE#8] [] { start with p := 0x21#8 }
    { start with p := 0x21#8, pc := 0x8000#16 } 3 [] = true := by decide
/-- `BCS $8100`, section 2.5, `B0 00`: offset 0 at 0x80FE: target 0x8100 is the address after the branch; the page test compares with that address, not with 0x80FE, so 2 + 1. -/
theorem test_bcs_2 : runs [0xB0#8, 0x00#8] [] { start with pc := 0x80FE#16, p := 0x21#8 }
    { start with pc := 0x8100#16, p := 0x21#8 } 3 [] = true := by decide
/-- `BEQ $8101`, section 2.5, `F0 02`: taken, page cross: 2 + 2. -/
theorem test_beq : runs [0xF0#8, 0x02#8] [] { start with pc := 0x80FD#16, p := 0x22#8 }
    { start with pc := 0x8101#16, p := 0x22#8 } 4 [] = true := by decide
/-- `BNE $8000`, section 2.5, `D0 F9`: taken, same page: 2 + 1. -/
theorem test_bne_1 : runs [0xD0#8, 0xF9#8] [] { start with pc := 0x8005#16, p := 0x20#8 }
    { start with pc := 0x8000#16, p := 0x20#8 } 3 [] = true := by decide
/-- `BNE $8000`, section 2.5, `D0 F9`: not taken. -/
theorem test_bne_2 : runs [0xD0#8, 0xF9#8] [] { start with pc := 0x8005#16, p := 0x22#8 }
    { start with pc := 0x8007#16, p := 0x22#8 } 2 [] = true := by decide
/-- `BMI $8081`, section 2.5, `30 7F`: largest forward offset. -/
theorem test_bmi : runs [0x30#8, 0x7F#8] [] { start with p := 0xA0#8 }
    { start with p := 0xA0#8, pc := 0x8081#16 } 3 [] = true := by decide
/-- `BPL $7F82`, section 2.5, `10 80`: largest backward offset; page cross. -/
theorem test_bpl : runs [0x10#8, 0x80#8] [] { start with p := 0x20#8 }
    { start with p := 0x20#8, pc := 0x7F82#16 } 4 [] = true := by decide
/-- `BVC $0002`, section 2.5, `50 10`: wraps past 0xFFFF; counts as page cross. -/
theorem test_bvc : runs [0x50#8, 0x10#8] [] { start with pc := 0xFFF0#16, p := 0x20#8 }
    { start with pc := 0x0002#16, p := 0x20#8 } 4 [] = true := by decide
/-- `BVS $FFF4`, section 2.5, `70 F0`: wraps below 0x0000. -/
theorem test_bvs : runs [0x70#8, 0xF0#8] [] { start with pc := 0x0002#16, p := 0x60#8 }
    { start with pc := 0xFFF4#16, p := 0x60#8 } 4 [] = true := by decide
/-- `PHA`, section 2.6, `48`: stack wrap: SP 0x00 -> 0xFF. -/
theorem test_pha : runs [0x48#8] [] { start with a := 0x42#8, sp := 0x00#8 }
    { start with a := 0x42#8, sp := 0xFF#8, p := 0x20#8, pc := 0x8001#16 } 3 [(0x0100#16, 0x42#8)] = true := by decide
/-- `PLA`, section 2.6, `68`: stack wrap: SP 0xFF -> 0x00; Z set. -/
theorem test_pla : runs [0x68#8] [(0x0100#16, 0x00#8)] { start with sp := 0xFF#8, p := 0xA0#8 }
    { start with sp := 0x00#8, p := 0x22#8, pc := 0x8001#16 } 4 [] = true := by decide
/-- `PHP`, section 2.6, `08`: pushed byte has B and U set; live P unchanged at the end. -/
theorem test_php : runs [0x08#8] [] { start with p := 0xE3#8 }
    { start with p := 0xE3#8, sp := 0xFC#8, pc := 0x8001#16 } 3 [(0x01FD#16, 0xF3#8)] = true := by decide
/-- `PLP`, section 2.6, `28`: bit 5 of the pulled byte is 0, U forced to 1; bit 4 (B) loaded as 0. -/
theorem test_plp_1 : runs [0x28#8] [(0x01FE#16, 0xCF#8)] start
    { start with sp := 0xFE#8, p := 0xEF#8, pc := 0x8001#16 } 4 [] = true := by decide
/-- `PLP`, section 2.6, `28`: stored B = 1 after PLP (no rule reads it). -/
theorem test_plp_2 : runs [0x28#8] [(0x01FE#16, 0x10#8)] start
    { start with sp := 0xFE#8, p := 0x30#8, pc := 0x8001#16 } 4 [] = true := by decide
/-- `JSR $1234`, section 2.6, `20 34 12`: pushes straddle the stack wrap. -/
theorem test_jsr : runs [0x20#8, 0x34#8, 0x12#8] [] { start with sp := 0x00#8 }
    { start with sp := 0xFE#8, p := 0x20#8, pc := 0x1234#16 } 6 [(0x0100#16, 0x80#8), (0x01FF#16, 0x02#8)] = true := by decide
/-- `RTS`, section 2.6, `60`: pulled 0xFFFF + 1 wraps to 0x0000. -/
theorem test_rts : runs [0x60#8] [(0x01FE#16, 0xFF#8), (0x01FF#16, 0xFF#8)] { start with sp := 0xFD#8 }
    { start with sp := 0xFF#8, p := 0x20#8, pc := 0x0000#16 } 6 [] = true := by decide
/-- `BRK`, section 2.6, `00`: pushes 0x8002 and P with B, I. -/
theorem test_brk : runs [0x00#8] [(0xFFFE#16, 0x00#8), (0xFFFF#16, 0x90#8)] { start with p := 0xA1#8 }
    { start with p := 0xA5#8, sp := 0xFA#8, pc := 0x9000#16 } 7 [(0x01FD#16, 0x80#8), (0x01FC#16, 0x02#8), (0x01FB#16, 0xB5#8)] = true := by decide
/-- `RTI`, section 2.6, `40`: B cleared, U forced. -/
theorem test_rti_1 : runs [0x40#8] [(0x01FB#16, 0xB1#8), (0x01FC#16, 0x02#8), (0x01FD#16, 0x80#8)] { start with sp := 0xFA#8 }
    { start with sp := 0xFD#8, p := 0xA1#8, pc := 0x8002#16 } 6 [] = true := by decide
/-- `RTI`, section 2.6, `40`: pulled 0xFF gives P = 0xEF. -/
theorem test_rti_2 : runs [0x40#8] [(0x01FB#16, 0xFF#8), (0x01FC#16, 0x00#8), (0x01FD#16, 0x90#8)] { start with sp := 0xFA#8 }
    { start with sp := 0xFD#8, p := 0xEF#8, pc := 0x9000#16 } 6 [] = true := by decide
/-- `LDA #$99`, section 2.1, `A9 99`: IMM, opcode at 0xFFFF: the operand byte is at 0x0000; PC wraps to 0x0001. -/
theorem test_lda_1 : runs [0xA9#8, 0x99#8] [] { start with pc := 0xFFFF#16 }
    { start with pc := 0x0001#16, a := 0x99#8, p := 0xA0#8 } 2 [] = true := by decide
/-- `LDA ($FE,X)`, section 2.1, `A1 FE`: IZX pointer straddles the page-0 wrap: low at 0x00FF, high at 0x0000. -/
theorem test_lda_2 : runs [0xA1#8, 0xFE#8] [(0x0000#16, 0x12#8), (0x00FF#16, 0x34#8), (0x1234#16, 0x99#8)] { start with x := 0x01#8 }
    { start with x := 0x01#8, a := 0x99#8, p := 0xA0#8, pc := 0x8002#16 } 6 [] = true := by decide
/-- `LDX $FF,Y`, section 2.1, `B6 FF`: ZPY wraps in page 0. -/
theorem test_ldx : runs [0xB6#8, 0xFF#8] [(0x0001#16, 0xC0#8)] { start with y := 0x02#8 }
    { start with y := 0x02#8, x := 0xC0#8, p := 0xA0#8, pc := 0x8002#16 } 4 [] = true := by decide
/-- `LDY $12F0,X`, section 2.7, `BC F0 12`: page cross. -/
theorem test_ldy : runs [0xBC#8, 0xF0#8, 0x12#8] [(0x1310#16, 0x11#8)] { start with x := 0x20#8 }
    { start with x := 0x20#8, y := 0x11#8, p := 0x20#8, pc := 0x8003#16 } 5 [] = true := by decide
/-- `STA ($10),Y`, section 2.1, `91 10`: IZY store: 6 cycles with or without page cross. -/
theorem test_sta_1 : runs [0x91#8, 0x10#8] [(0x0010#16, 0xF0#8), (0x0011#16, 0x12#8)] { start with a := 0x77#8, y := 0x20#8 }
    { start with a := 0x77#8, y := 0x20#8, p := 0x20#8, pc := 0x8002#16 } 6 [(0x1310#16, 0x77#8)] = true := by decide
/-- `STA $12F0,X`, section 2.7, `9D F0 12`: 5 cycles with page cross. -/
theorem test_sta_2 : runs [0x9D#8, 0xF0#8, 0x12#8] [] { start with a := 0x80#8, x := 0x20#8 }
    { start with a := 0x80#8, x := 0x20#8, p := 0x20#8, pc := 0x8003#16 } 5 [(0x1310#16, 0x80#8)] = true := by decide
/-- `STX $F0,Y`, section 2.7, `96 F0`: ZPY wraps. -/
theorem test_stx : runs [0x96#8, 0xF0#8] [] { start with x := 0x77#8, y := 0x20#8 }
    { start with x := 0x77#8, y := 0x20#8, p := 0x20#8, pc := 0x8002#16 } 4 [(0x0010#16, 0x77#8)] = true := by decide
/-- `STY $1234`, section 2.7, `8C 34 12`. -/
theorem test_sty : runs [0x8C#8, 0x34#8, 0x12#8] [] { start with y := 0x5A#8 }
    { start with y := 0x5A#8, p := 0x20#8, pc := 0x8003#16 } 4 [(0x1234#16, 0x5A#8)] = true := by decide
/-- `TAX`, section 2.7, `AA`. -/
theorem test_tax : runs [0xAA#8] [] { start with a := 0x80#8 }
    { start with a := 0x80#8, x := 0x80#8, p := 0xA0#8, pc := 0x8001#16 } 2 [] = true := by decide
/-- `TAY`, section 2.7, `A8`. -/
theorem test_tay : runs [0xA8#8] [] { start with a := 0x00#8, y := 0x05#8 }
    { start with a := 0x00#8, y := 0x00#8, p := 0x22#8, pc := 0x8001#16 } 2 [] = true := by decide
/-- `TXA`, section 2.7, `8A`. -/
theorem test_txa : runs [0x8A#8] [] { start with x := 0x7F#8, p := 0xA0#8 }
    { start with x := 0x7F#8, p := 0x20#8, a := 0x7F#8, pc := 0x8001#16 } 2 [] = true := by decide
/-- `TYA`, section 2.7, `98`. -/
theorem test_tya : runs [0x98#8] [] { start with y := 0xFF#8 }
    { start with y := 0xFF#8, a := 0xFF#8, p := 0xA0#8, pc := 0x8001#16 } 2 [] = true := by decide
/-- `TSX`, section 2.7, `BA`. -/
theorem test_tsx : runs [0xBA#8] [] start
    { start with x := 0xFD#8, p := 0xA0#8, pc := 0x8001#16 } 2 [] = true := by decide
/-- `TXS`, section 2.7, `9A`: no flag changes. -/
theorem test_txs : runs [0x9A#8] [] { start with x := 0x00#8, p := 0xA0#8 }
    { start with x := 0x00#8, p := 0xA0#8, sp := 0x00#8, pc := 0x8001#16 } 2 [] = true := by decide
/-- `NOP`, section 2.8, `EA`. -/
theorem test_nop : runs [0xEA#8] [] { start with a := 0x81#8, p := 0xE3#8 }
    { start with a := 0x81#8, p := 0xE3#8, pc := 0x8001#16 } 2 [] = true := by decide
/-- `.byte $1C,$F0,$12`, section 2.8, `1C F0 12`: *NOP ABX, page cross: 4 + 1. -/
theorem test_nopAlias_1 : runs [0x1C#8, 0xF0#8, 0x12#8] [] { start with x := 0x20#8 }
    { start with x := 0x20#8, p := 0x20#8, pc := 0x8003#16 } 5 [] = true := by decide
/-- `.byte $04,$10`, section 2.8, `04 10`: *NOP ZP0: no access to 0x0010. -/
theorem test_nopAlias_2 : runs [0x04#8, 0x10#8] [(0x0010#16, 0x55#8)] start
    { start with p := 0x20#8, pc := 0x8002#16 } 3 [] = true := by decide
/-- `.byte $03`, section 2.8, `03`: XXX, base 8. -/
theorem test_xxx_1 : runs [0x03#8] [] start
    { start with p := 0x20#8, pc := 0x8001#16 } 8 [] = true := by decide
/-- `.byte $EB,$01`, section 2.8, `EB 01`: XXX: not SBC; PC advances by 1 only. -/
theorem test_xxx_2 : runs [0xEB#8, 0x01#8] [] { start with a := 0x05#8, p := 0x21#8 }
    { start with a := 0x05#8, p := 0x21#8, pc := 0x8001#16 } 2 [] = true := by decide
/-- `AND $12F0,X`, section 2.9, `3D F0 12`: page cross. -/
theorem test_and : runs [0x3D#8, 0xF0#8, 0x12#8] [(0x1310#16, 0x80#8)] { start with a := 0xFF#8, x := 0x20#8 }
    { start with a := 0x80#8, x := 0x20#8, p := 0xA0#8, pc := 0x8003#16 } 5 [] = true := by decide
/-- `ORA ($10),Y`, section 2.9, `11 10`: page cross. -/
theorem test_ora : runs [0x11#8, 0x10#8] [(0x0010#16, 0xFF#8), (0x0011#16, 0x20#8), (0x2100#16, 0x0F#8)] { start with a := 0x30#8, y := 0x01#8 }
    { start with a := 0x3F#8, y := 0x01#8, p := 0x20#8, pc := 0x8002#16 } 6 [] = true := by decide
/-- `EOR #$FF`, section 2.9, `49 FF`. -/
theorem test_eor : runs [0x49#8, 0xFF#8] [] { start with a := 0xFF#8 }
    { start with a := 0x00#8, p := 0x22#8, pc := 0x8002#16 } 2 [] = true := by decide
/-- `BIT $10`, section 2.4, `24 10`. -/
theorem test_bit : runs [0x24#8, 0x10#8] [(0x0010#16, 0x41#8)] { start with a := 0x01#8, p := 0xE3#8 }
    { start with a := 0x01#8, p := 0x61#8, pc := 0x8002#16 } 3 [] = true := by decide
/-- `INC $10`, section 2.9, `E6 10`: wraps to 0; C not set. -/
theorem test_inc : runs [0xE6#8, 0x10#8] [(0x0010#16, 0xFF#8)] { start with p := 0x20#8 }
    { start with p := 0x22#8, pc := 0x8002#16 } 5 [(0x0010#16, 0x00#8)] = true := by decide
/-- `DEC $1234`, section 2.9, `CE 34 12`: C kept. -/
theorem test_dec : runs [0xCE#8, 0x34#8, 0x12#8] [(0x1234#16, 0x80#8)] { start with p := 0x21#8 }
    { start with p := 0x21#8, pc := 0x8003#16 } 6 [(0x1234#16, 0x7F#8)] = true := by decide
/-- `INX`, section 2.9, `E8`. -/
theorem test_inx : runs [0xE8#8] [] { start with x := 0xFF#8 }
    { start with x := 0x00#8, p := 0x22#8, pc := 0x8001#16 } 2 [] = true := by decide
/-- `INY`, section 2.9, `C8`. -/
theorem test_iny : runs [0xC8#8] [] { start with y := 0xFF#8 }
    { start with y := 0x00#8, p := 0x22#8, pc := 0x8001#16 } 2 [] = true := by decide
/-- `DEX`, section 2.9, `CA`. -/
theorem test_dex : runs [0xCA#8] [] { start with x := 0x00#8 }
    { start with x := 0xFF#8, p := 0xA0#8, pc := 0x8001#16 } 2 [] = true := by decide
/-- `DEY`, section 2.9, `88`. -/
theorem test_dey : runs [0x88#8] [] { start with y := 0x80#8, p := 0xA0#8 }
    { start with y := 0x7F#8, p := 0x20#8, pc := 0x8001#16 } 2 [] = true := by decide
/-- `CLC`, section 2.9, `18`. -/
theorem test_clc : runs [0x18#8] [] { start with p := 0xE3#8 }
    { start with p := 0xE2#8, pc := 0x8001#16 } 2 [] = true := by decide
/-- `SEC`, section 2.9, `38`. -/
theorem test_sec : runs [0x38#8] [] { start with p := 0x20#8 }
    { start with p := 0x21#8, pc := 0x8001#16 } 2 [] = true := by decide
/-- `CLI`, section 2.9, `58`. -/
theorem test_cli : runs [0x58#8] [] { start with p := 0x24#8 }
    { start with p := 0x20#8, pc := 0x8001#16 } 2 [] = true := by decide
/-- `SEI`, section 2.9, `78`. -/
theorem test_sei : runs [0x78#8] [] { start with p := 0x20#8 }
    { start with p := 0x24#8, pc := 0x8001#16 } 2 [] = true := by decide
/-- `CLD`, section 2.9, `D8`. -/
theorem test_cld : runs [0xD8#8] [] { start with p := 0x28#8 }
    { start with p := 0x20#8, pc := 0x8001#16 } 2 [] = true := by decide
/-- `SED`, section 2.9, `F8`. -/
theorem test_sed : runs [0xF8#8] [] { start with p := 0x20#8 }
    { start with p := 0x28#8, pc := 0x8001#16 } 2 [] = true := by decide
/-- `CLV`, section 2.9, `B8`. -/
theorem test_clv : runs [0xB8#8] [] { start with p := 0xE3#8 }
    { start with p := 0xA3#8, pc := 0x8001#16 } 2 [] = true := by decide
/-- `JMP ($ABFF)`, section 2.1, `6C FF AB`: IND page-wrap bug: high byte from 0xAB00, not 0xAC00. -/
theorem test_jmp_1 : runs [0x6C#8, 0xFF#8, 0xAB#8] [(0xAB00#16, 0xBB#8), (0xABFF#16, 0xCC#8), (0xAC00#16, 0x99#8)] start
    { start with p := 0x20#8, pc := 0xBBCC#16 } 5 [] = true := by decide
/-- `JMP $1234`, section 2.9, `4C 34 12`. -/
theorem test_jmp_2 : runs [0x4C#8, 0x34#8, 0x12#8] [] start
    { start with p := 0x20#8, pc := 0x1234#16 } 3 [] = true := by decide

/-! ## Reset and the sequencer (95_test_vectors.md, section 2.10) -/

/-- Reset from the middle of an instruction. -/
theorem test_reset :
    ({ start with cycles := 5, a := 0x12#8, sp := 0x80#8, p := 0xE3#8, pc := 0x1234#16, mem := [(0xFFFD, 0x80#8)] }
      : State).activateReset =
    { State.reset with pc := 0x8000#16, mem := [(0xFFFD, 0x80#8)] } := by decide
/-- A counting step. -/
theorem test_counting : step { start with cycles := 3 } = .next { start with cycles := 2 } := rfl
/-- U is forced even when a host test write has cleared it. -/
theorem test_unused_forced : runs [0xEA#8] [] { start with p := 0x00#8 } { start with pc := 0x8001#16 } 2 [] = true := by
  decide
/-- `STA $0200`: the bus accesses in order, and the countdown. -/
theorem test_bus_trace :
    busTrace { start with a := 0x05#8, mem := [(0x8000, 0x8D#8), (0x8002, 0x02#8)] } =
      [.read 0x8000#16 0x8D#8, .read 0x8001#16 0x00#8, .read 0x8002#16 0x02#8, .write 0x0200#16 0x05#8] := by decide
/-- The five bus reads of `JMP ($ABFF)` (95_test_vectors.md, section 1.4). -/
theorem test_bus_trace_indirect :
    busTrace { start with mem := writeAll [] (bytesAt 0x8000#16 [0x6C#8, 0xFF#8, 0xAB#8]) } =
      [.read 0x8000#16 0x6C#8, .read 0x8001#16 0xFF#8, .read 0x8002#16 0xAB#8, .read 0xABFF#16 0x00#8,
        .read 0xAB00#16 0x00#8] := by decide
/-- Writing 0x00 unlists the byte. -/
theorem test_memory_canonical :
    Memory.write [(1, 0x11#8), (2, 0x22#8)] 0x0001#16 0x00#8 = [(2, 0x22#8)] ∧
    Memory.write [(1, 0x11#8), (3, 0x33#8)] 0x0002#16 0x22#8 = [(1, 0x11#8), (2, 0x22#8), (3, 0x33#8)] ∧
    Memory.wf [(2, 0x22#8), (1, 0x11#8)] = false ∧ Memory.wf [(1, 0x00#8)] = false ∧
    Memory.wf [(65536, 0x11#8)] = false := by decide

/-! ## Witnesses: a state and operands that meet the hypotheses of each statement -/

/-- Idle, an instruction straddling 0xFFFF. -/
def edge : State := { start with pc := 0xFFFF#16, mem := [(0, 0x99#8), (0xFFFF, 0xA9#8)] }

theorem witness_DecodeOfEncode :
    (Instr.lda (.abx 0xFFFF#16)).wellFormed = true ∧ (Instr.nopAlias 0x1C#8 (.abx 0x0000#16)).wellFormed = true ∧
    (Instr.xxx 0xFF#8).wellFormed = true ∧ (Instr.bne 0x80#8).wellFormed = true := by decide
theorem witness_IdleStepRunsDecodedInstruction :
    edge.cycles = 0 ∧
    decode [edge.mem.read edge.pc, edge.mem.read (edge.pc + 1), edge.mem.read (edge.pc + 2)] =
      .ok (.lda (.imm 0x99#8), [0x00#8]) := ⟨rfl, rfl⟩
theorem witness_SequencerStates :
    0 < ({ start with cycles := 1 } : State).cycles ∧ start.cycles = 0 ∧ 0 < 1 ∧ 1 < instrTotal start := by decide
theorem witness_InstructionViewAgreesWithClock : edge.cycles = 0 ∧ 0 < 1 ∧ 1 < instrTotal edge := by decide
theorem witness_StepKeepsInvariant_working : edge.Inv ∧ ∃ t, step edge = .next t := ⟨by decide, _, rfl⟩
theorem witness_StepKeepsInvariant_counting :
    State.reset.Inv ∧ step State.reset = .next { State.reset with cycles := 7 } := ⟨by decide, rfl⟩
theorem witness_HostActionsKeepInvariant :
    edge.Inv ∧ (∃ t, act edge (.write 0xFFFF#16 0x00#8) = .next t) ∧ Memory.wf [(0, 0x01#8), (65535, 0xFF#8)] = true :=
  ⟨by decide, ⟨_, rfl⟩, by decide⟩
/-- The page-cross cycle taken and not taken: LDA `BD` and the NOP alias `1C` take it when the index crosses, STA `9D` and
the alias `04` never do (50_sequencer.md R222). -/
theorem witness_CycleTotalBounds_extra :
    let s : Byte → Byte → State := fun op x => { start with x := x, mem := [(0x8000, op), (0x8001, 0xF0#8), (0x8002, 0x12#8)] }
    (s 0xBD#8 0x0F#8).cycles = 0 ∧ instrTotal (s 0xBD#8 0x0F#8) = 4 ∧ instrTotal (s 0xBD#8 0x10#8) = 5 ∧
    instrTotal (s 0x1C#8 0x0F#8) = 4 ∧ instrTotal (s 0x1C#8 0x10#8) = 5 ∧
    instrTotal (s 0x9D#8 0x0F#8) = 5 ∧ instrTotal (s 0x9D#8 0x10#8) = 5 ∧ instrTotal (s 0x04#8 0x10#8) = 3 := by decide
theorem witness_CycleTotalBounds :
    start.cycles = 0 ∧ start.fetchInstr.mnemonic ≠ .xxx ∧ instrTotal start = 7 ∧
    instrTotal { start with mem := [(0x8000, 0x03#8)] } = 8 ∧ instrTotal { start with mem := [(0x8000, 0xEA#8)] } = 2 := by
  decide
theorem witness_UnusedFlagForcedTwice : edge.cycles = 0 ∧ Flag.c ≠ .u := by decide
/-- A store to each of the three bytes of the next instruction: STA absolute to its opcode byte, and to its operand byte as in
95_test_vectors.md 3.5; STX zero page, at the top of the address space, to its last byte. -/
theorem witness_StoreSeenByNextFetch :
    let s : State := { start with mem := [(0x8000, 0x8D#8), (0x8001, 0x03#8), (0x8002, 0x80#8)] }
    let u : State := { start with pc := 0x8002#16, mem := [(0x8002, 0x8D#8), (0x8003, 0x06#8), (0x8004, 0x80#8)] }
    let v : State := { start with pc := 0xFFFE#16, mem := [(0xFFFE, 0x86#8), (0xFFFF, 0x02#8)] }
    s.cycles = 0 ∧ s.fetchInstr = .sta (.abs 0x8003#16) ∧
    effectiveAddress (.abs 0x8003#16) s.beginInstr = s.pc + BitVec.ofNat 16 ((Instr.sta (.abs 0x8003#16)).length + 0) ∧
    u.cycles = 0 ∧ u.fetchInstr = .sta (.abs 0x8006#16) ∧
    effectiveAddress (.abs 0x8006#16) u.beginInstr = u.pc + BitVec.ofNat 16 ((Instr.sta (.abs 0x8006#16)).length + 1) ∧
    v.cycles = 0 ∧ v.fetchInstr = .stx (.zp0 0x02#8) ∧
    effectiveAddress (.zp0 0x02#8) v.beginInstr = v.pc + BitVec.ofNat 16 ((Instr.stx (.zp0 0x02#8)).length + 2) := by
  decide
/-- A push into the next instruction, which JSR has sent to page 1. -/
theorem witness_StoreSeenByNextFetch_push :
    let s : State := { start with sp := 0x80#8, mem := [(0x8000, 0x20#8), (0x8001, 0x7F#8), (0x8002, 0x01#8)] }
    s.cycles = 0 ∧ redirect s.fetchInstr s = some 0x017F#16 ∧
    storedBytes s.fetchInstr s.beginInstr = [(0x0180#16, 0x80#8), (0x017F#16, 0x02#8)] := by decide
theorem witness_CanonicalMemoriesDetermined :
    Memory.wf [(0, 0x01#8), (65535, 0xFF#8)] = true ∧
    (∀ a : Addr, Memory.read [(0, 0x01#8), (65535, 0xFF#8)] a = Memory.read [(0, 0x01#8), (65535, 0xFF#8)] a) :=
  ⟨by decide, fun _ => rfl⟩
theorem witness_FlagWritesTouchTheirBits : 7 < 8 ∧ Flag.v ≠ .z ∧ Flag.v ≠ .n := by decide
theorem witness_StackPointerDiscipline : Instr.nop.mnemonic ∉ [.txs, .pha, .php, .pla, .plp, .jsr, .rts, .brk, .rti] := by
  decide
theorem witness_OnlyListedFlagsWritten : Flag.d ∉ flagsWritten .adc ∧ Flag.c ∉ flagsWritten .lda := by decide
theorem witness_StoredBreakInfluencesNothing :
    SameButBreak { edge with p := 0x30#8 } { edge with p := 0x20#8 } ∧
    ({ edge with p := 0x30#8 } : State) ≠ { edge with p := 0x20#8 } := by
  unfold SameButBreak; decide
theorem witness_TransientStateInfluencesNothing :
    SameButTransient { edge with addrAbs := 0xFFFF#16, addrRel := 0xFF80#16, opcode := 0x4C#8, accMode := true } edge ∧
    ({ edge with addrAbs := 0xFFFF#16 } : State) ≠ edge := by
  unfold SameButTransient; decide
/-- The clauses at their boundaries: an index that wraps in page 0, and rows that exist. -/
theorem witness_ZeroPageModes :
    (resolve (.zpx 0xFF#8) { start with x := 0x01#8 }).addrAbs = 0x0000#16 ∧
    (resolve (.zpy 0xFF#8) { start with y := 0xFF#8 }).addrAbs = 0x00FE#16 ∧
    (documentedRow .ldx .zpy).isSome = true ∧ (documentedRow .stx .zpy).isSome = true := by decide
theorem witness_AbsoluteModes :
    (resolve (.abx 0xFFFF#16) { start with x := 0x01#8 }).addrAbs = 0x0000#16 ∧
    modeExtra (.abx 0xFFFF#16) { start with x := 0x01#8 } = true ∧
    modeExtra (.aby 0x1200#16) { start with y := 0xFF#8 } = false := by decide
/-- Both sides of the page-wrap test: the pointer's low byte 0xFF, and 0xFE. -/
theorem witness_IndirectPageWrap :
    let m : Memory := [(0xAB00, 0xBB#8), (0xABFE, 0x11#8), (0xABFF, 0xCC#8), (0xAC00, 0x99#8)]
    (resolve (.ind 0xABFF#16) { start with mem := m }).addrAbs = 0xBBCC#16 ∧
    (resolve (.ind 0xABFE#16) { start with mem := m }).addrAbs = 0xCC11#16 ∧
    documentedRow .jmp .ind = some (0x6C#8, 5) ∧ (opcodeRow 0x6C#8).mode = .ind := by decide
theorem witness_ZeroPagePointers :
    let m : Memory := [(0, 0x12#8), (0xFF, 0x34#8), (0x100, 0x99#8)]
    (resolve (.izx 0xFE#8) { start with x := 0x01#8, mem := m }).addrAbs = 0x1234#16 ∧
    (resolve (.izy 0xFF#8) { start with y := 0xCC#8, mem := m }).addrAbs = 0x1300#16 ∧
    modeExtra (.izy 0xFF#8) { start with y := 0xCC#8, mem := m } = true ∧
    modeExtra (.izy 0xFF#8) { start with y := 0xCB#8, mem := m } = false := by decide
theorem witness_PageCrossSignal : (Form.zpx 0xFF#8).mode ∉ [.abx, .aby, .izy] ∧ Form.imp.mode ∉ [.abx, .aby, .izy] := by
  decide
/-- An instruction that redirects `PC` and one that does not. -/
theorem witness_ProgramCounterAdvance :
    start.cycles = 0 ∧ redirect start.fetchInstr start = some 0x0000#16 ∧ edge.cycles = 0 ∧
    redirect edge.fetchInstr edge = none := by decide
/-- A working step in accumulator mode (ASL A), one on memory (edge reads an immediate), and an instruction of the list that
fetches an operand. -/
theorem witness_OperandAndWriteBackContracts :
    let s : State := { start with mem := [(0x8000, 0x0A#8)] }
    s.cycles = 0 ∧ (resolve s.fetchInstr.form s.beginInstr).accMode = true ∧
    edge.cycles = 0 ∧ (resolve edge.fetchInstr.form edge.beginInstr).accMode = false ∧
    operandByte edge.fetchInstr.form (resolve edge.fetchInstr.form edge.beginInstr) = 0x99#8 ∧
    Mnemonic.dec ∈ [Mnemonic.adc, .sbc, .and, .ora, .eor, .cmp, .cpx, .cpy, .bit, .lda, .ldx, .ldy, .inc, .dec] := by decide
theorem witness_NineRotationsRestore :
    (Instr.rol .imp).wellFormed = true ∧ (Instr.rol (.abx 0xFFFF#16)).wellFormed = true := by decide
/-- A branch taken and one not taken, on the boundary offsets. -/
theorem witness_BranchResults :
    start.flag .c = false ∧ ({ start with p := 0x21#8 } : State).flag .c ≠ false ∧
    (0x80#8 : Byte).toInt = -128 ∧ (0x7F#8 : Byte).toInt = 127 := by decide
theorem witness_TrapEntryStep : start.cycles = 0 ∧ start.mem.read start.pc = 0x00#8 := by decide
theorem witness_BootOrder : edge.mem.wf = true ∧ State.reset.mem.wf = true := by decide
theorem witness_EveryRunIsSafe : edge.Inv := by decide
/-- Eight steps reach the end, and it is the first. -/
theorem witness_RunEndsAtFirstEnd :
    runUntil (idleAt 0x0000#16) 8 State.reset = some { State.reset with cycles := 0 } ∧
    runUntil (idleAt 0x0000#16) 7 State.reset = none := by decide

end Sys2Proof.Tests
end

/-! The clock step is total, and so is every activation of the machine (00_scope.md R6). -/

namespace Sys2Proof

open Machine

/-- One clock step never faults and is never refused: the counting step only decrements, and the working step ends with the
next state that `exec_cases` gives for every instruction, the undocumented ones included. -/
theorem step_next (s : State) : ∃ t, step s = .next t := by
  rcases Nat.eq_zero_or_pos s.cycles with idle | counting
  · obtain ⟨t, n, he, -⟩ := exec_cases s.fetchInstr s.beginInstr
    exact ⟨_, step_working idle he⟩
  · exact ⟨_, step_counting counting⟩

/-- Settles O4, by cases on the action: `step_next` for the clock; reset and the host's accesses are total functions. -/
theorem noActivationFails : Obligations.NoActivationFails := by
  intro s x
  cases x with
  | clock => exact step_next s
  | reset => exact ⟨s.activateReset, rfl⟩
  | write addr value => exact ⟨s.hostWrite addr value, rfl⟩
  | read addr => exact ⟨s, rfl⟩

end Sys2Proof

/-! Flag writes bit by bit (10_state.md R20, R23, R25): the eight flags name the eight bits of the status byte, each bit once,
so that what holds of the flags of a status byte holds of its bits. -/

namespace Sys2Proof.Machine

theorem Flag.bit_inj {f g : Flag} : f.bit = g.bit ↔ f = g := by cases f <;> cases g <;> decide

theorem Flag.exists_bit_eq {j : Nat} (hj : j < 8) : ∃ f : Flag, f.bit = j :=
  match j, hj with
  | 0, _ => ⟨.c, rfl⟩
  | 1, _ => ⟨.z, rfl⟩
  | 2, _ => ⟨.i, rfl⟩
  | 3, _ => ⟨.d, rfl⟩
  | 4, _ => ⟨.b, rfl⟩
  | 5, _ => ⟨.u, rfl⟩
  | 6, _ => ⟨.v, rfl⟩
  | 7, _ => ⟨.n, rfl⟩

theorem getLsbD_writeFlag (p : Byte) (g : Flag) (v : Bool) {j : Nat} (hj : j < 8) :
    (writeFlag p g v).getLsbD j = if j = g.bit then v else p.getLsbD j := by
  obtain ⟨f, rfl⟩ := Flag.exists_bit_eq hj
  simp only [Flag.bit_inj]
  exact readFlag_writeFlag p g f v

/-- Of two forced writes of one flag the later alone counts. -/
@[simp] theorem writeFlag_writeFlag_same (p : Byte) (g : Flag) (v w : Bool) :
    writeFlag (writeFlag p g v) g w = writeFlag p g w := by
  apply status_ext
  intro f
  by_cases h : f = g <;> simp [readFlag_writeFlag, h]

theorem flag_setZN_other (s : State) (v : Byte) {g : Flag} (hz : g ≠ .z) (hn : g ≠ .n) :
    (s.setZN v).flag g = s.flag g := by simp [flag_setZN, hz, hn]

end Sys2Proof.Machine

namespace Sys2Proof

open Machine

theorem znOf_setZN (s : State) (v : Byte) : ZNOf v (s.setZN v) := by
  constructor <;> simp [flag_setZN, beq_eq_decide]

/-- Settles O19: `SetZN` by what it leaves in each flag, forced writes by `getLsbD_writeFlag` and, for idempotence, by the
later of two writes of one flag alone counting. -/
theorem flagWritesTouchTheirBits : Obligations.FlagWritesTouchTheirBits := by
  refine ⟨fun s v => ⟨znOf_setZN s v, ?_, fun g => flag_setZN_other s v⟩, fun p g v j => getLsbD_writeFlag p g v,
    fun p g v => writeFlag_writeFlag_same p g v v⟩
  exact BitVec.msb_eq_getLsbD_last v

end Sys2Proof

/-! Reads and writes of memory, by the core and by the host (20_memory.md R41). -/

namespace Sys2Proof.Machine

/-- Memory in which no byte was ever written reads as the unwritten byte everywhere. -/
@[simp] theorem Memory.read_nil (a : Addr) : Memory.read [] a = Config.unwrittenByte := rfl

/-- The host reads the same memory as the core. -/
@[simp] theorem hostRead_eq_read (s : State) (a : Addr) : s.hostRead a = s.mem.read a := rfl

end Sys2Proof.Machine

namespace Sys2Proof

open Machine

/-- Settles O15: `Memory.read_write` for the core's accesses; the host's read and write are the same two operations on the
same memory (`hostRead_eq_read`, `hostWrite_mem`). -/
theorem memoryReadAfterWrite : Obligations.MemoryReadAfterWrite :=
  ⟨Memory.read_write, Memory.read_nil, fun s a v => ⟨hostRead_eq_read s a, hostWrite_mem s a v⟩⟩

end Sys2Proof

/-! The absolute addressing modes (40_addressing_modes.md R87 to R89). -/

namespace Sys2Proof

open Machine

/-- Settles O24: the operand word is `word h l`, the indexed sum is `add_zext16_toNat`, and the signal compares high bytes,
which `hi8_bne` reads as pages of the two addresses. -/
theorem absoluteModes : Obligations.AbsoluteModes := by
  refine ⟨fun l h => ⟨word h l, word_toNat h l, rfl, rfl, rfl⟩, fun w s => ?_⟩
  have pc_past_word : ∀ f ∈ [Form.abs w, .abx w, .aby w], (resolve f s).pc = s.pc + 2 := by
    simp [Form.mode, Mode.operandBytes]
  exact ⟨rfl, rfl, add_zext16_toNat w s.x, hi8_bne (w + zext16 s.x) w, add_zext16_toNat w s.y,
    hi8_bne (w + zext16 s.y) w, pc_past_word⟩

end Sys2Proof

/-! ADC and SBC as one addition to the accumulator, in which the Decimal flag plays no part (41_arithmetic.md R100 to R102). -/

namespace Sys2Proof.Machine

/-- Forced writes of two different flags commute. -/
theorem setFlag_comm (s : State) {f g : Flag} (v w : Bool) (h : f ≠ g) :
    (s.setFlag f v).setFlag g w = (s.setFlag g w).setFlag f v := by
  have hp : writeFlag (writeFlag s.p f v) g w = writeFlag (writeFlag s.p g w) f v := by
    apply status_ext
    intro k
    by_cases hk : k = g
    · subst hk; simp [readFlag_writeFlag, h.symm]
    · simp [readFlag_writeFlag, hk]
  simp [State.setFlag, hp]

theorem setSumFlags_setFlag_d (s : State) (d : Bool) (r : Sum) :
    (s.setFlag .d d).setSumFlags r = (s.setSumFlags r).setFlag .d d := by
  have d_last : ∀ (t : State) (g : Flag) (v : Bool), Flag.d ≠ g →
      (t.setFlag .d d).setFlag g v = (t.setFlag g v).setFlag .d d := fun t _ v => setFlag_comm t d v
  simp [State.setSumFlags, State.setZN, d_last]

/-! No resolver reads a flag: a flag forced before the resolver is the flag forced after it. -/

theorem resolve_setFlag (f : Form) (s : State) (g : Flag) (v : Bool) :
    resolve f (s.setFlag g v) = (resolve f s).setFlag g v := by cases f <;> rfl

theorem operandOf_setFlag (f : Form) (s : State) (g : Flag) (v : Bool) :
    operandOf f (s.setFlag g v) = operandOf f s := by cases f <;> rfl

theorem cycleTotal_setFlag (i : Instr) (n : Nat) (s : State) (g : Flag) (v : Bool) :
    cycleTotal i n (s.setFlag g v) = cycleTotal i n s := by
  have hx : modeExtra i.form (s.setFlag g v) = modeExtra i.form s := by cases i.form <;> rfl
  rw [cycleTotal, cycleTotal, hx]

/-! ## The shared addition -/

/-- The byte `m` and the carry added to the accumulator, with the flags of the sum: R100's semantics in a resolved state. -/
def State.addToAccumulator (t : State) (m : Byte) : State :=
  let r := addWithCarry t.a m (t.flag .c)
  { t with a := r.value }.setSumFlags r

/-- The state after an instruction `i` that adds `m` to the accumulator. -/
def afterSum (i : Instr) (m : Byte) (s : State) : State :=
  ((resolve i.form s).addToAccumulator m).armCycles (cycleTotal i 0 s)

theorem exec_adc (f : Form) (s : State) : exec (.adc f) s = .next (afterSum (.adc f) (operandOf f s) s) := rfl

/-- SBC adds the one's complement of its operand (41_arithmetic.md R101). -/
theorem exec_sbc (f : Form) (s : State) :
    exec (.sbc f) s = .next (afterSum (.sbc f) (operandOf f s ^^^ 0xFF#8) s) := rfl

theorem addToAccumulator_setFlag_d (t : State) (m : Byte) (d : Bool) :
    (t.setFlag .d d).addToAccumulator m = (t.addToAccumulator m).setFlag .d d := by
  have hc : (t.setFlag .d d).flag .c = t.flag .c := by simp [flag_setFlag]
  rw [State.addToAccumulator, hc]
  exact setSumFlags_setFlag_d { t with a := (addWithCarry t.a m (t.flag .c)).value } d _

theorem afterSum_setFlag_d (i : Instr) (m : Byte) (s : State) (d : Bool) :
    afterSum i m (s.setFlag .d d) = (afterSum i m s).setFlag .d d := by
  rw [afterSum, resolve_setFlag, cycleTotal_setFlag, addToAccumulator_setFlag_d]
  rfl

theorem afterSum_flag_d (i : Instr) (m : Byte) (s : State) : (afterSum i m s).flag .d = s.flag .d := by
  simp [afterSum, State.addToAccumulator, flag_setSumFlags]

theorem afterSum_a_toNat (i : Instr) (m : Byte) (s : State) :
    (afterSum i m s).a.toNat = (s.a.toNat + m.toNat + (s.flag .c).toNat) % 256 :=
  addWithCarry_value s.a m (s.flag .c)

end Sys2Proof.Machine

namespace Sys2Proof

open Machine

/-- Settles O38: both instructions are `afterSum` of a byte that does not depend on D (the operand, or its one's complement),
and `afterSum` commutes with forcing D, keeps D and adds in binary. -/
theorem decimalFlagIgnored : Obligations.DecimalFlagIgnored := by
  intro f s d e he
  simp only [List.mem_cons, List.not_mem_nil, or_false] at he
  obtain rfl | rfl := he
  · refine ⟨_, exec_adc f s, ?_, afterSum_flag_d _ _ s, afterSum_a_toNat _ _ s⟩
    rw [exec_adc, operandOf_setFlag, afterSum_setFlag_d]
  · refine ⟨_, exec_sbc f s, ?_, afterSum_flag_d _ _ s, ?_⟩
    · rw [exec_sbc, operandOf_setFlag, afterSum_setFlag_d]
    · rw [afterSum_a_toNat, complement_toNat]

end Sys2Proof

/-! The two states of the sequencer (50_sequencer.md R221): the cycle total of a fetched instruction is at least 2, and the
counter of a run from Idle is what remains of it. -/

namespace Sys2Proof.Machine

/-! ## The cycle total of a decoded instruction -/

/-- The base count goes by the row and the opcode byte, not by the operand bytes. -/
theorem baseCycles_instrOf (m : Mnemonic) (k : Mode) (op b1 b2 : Byte) :
    baseCycles (instrOf m k op b1 b2) = baseCycles (instrOf m k op 0 0) := by
  cases m
  case nop => by_cases h : op = 0xEA#8 <;> simp [instrOf, h, baseCycles]
  all_goals cases k <;> rfl

/-- The base count of a decoded instruction is the third column of its row in the grid (30_encoding.md R64): the tables by
mnemonic agree with the grid at each of the 256 opcode bytes. -/
theorem baseCycles_decodeBytes (op b1 b2 : Byte) : baseCycles (decodeBytes op b1 b2) = (opcodeRow op).base := by
  have tables_agree : ∀ op : Byte, baseCycles (decodeBytes op 0 0) = (opcodeRow op).base := by decide +kernel
  exact (baseCycles_instrOf _ _ op b1 b2).trans (tables_agree op)

theorem two_le_base : ∀ op : Byte, 2 ≤ (opcodeRow op).base := by decide +kernel

theorem two_le_cycleTotal_fetchInstr (s t : State) (n : Nat) : 2 ≤ cycleTotal s.fetchInstr n t := by
  have hb := two_le_base (s.mem.read s.pc)
  rw [← baseCycles_decodeBytes _ (s.mem.read (s.pc + 1)) (s.mem.read (s.pc + 2)), ← fetchInstr_eq] at hb
  unfold cycleTotal
  omega

/-- The fetched instruction answers a next state, with a total of at least 2 in the counter. -/
theorem exec_fetchInstr (s : State) : ∃ t, exec s.fetchInstr s.beginInstr = .next t ∧ 2 ≤ t.cycles := by
  obtain ⟨t, n, he, -⟩ := exec_cases s.fetchInstr s.beginInstr
  exact ⟨_, he, two_le_cycleTotal_fetchInstr s s.beginInstr n⟩

/-! ## Counting -/

theorem busTrace_counting {s : State} (h : 0 < s.cycles) : busTrace s = [] := if_neg (by omega)

/-- The counter `k` steps after Idle, while the instruction lasts: what remains of its total. -/
theorem run_within_instr {s t : State} (idle : s.cycles = 0) (he : exec s.fetchInstr s.beginInstr = .next t) {k : Nat}
    (hk : 0 < k) (hkt : k ≤ t.cycles) : core.run k s = .next { t.endInstr with cycles := t.cycles - k } := by
  obtain ⟨j, rfl⟩ : ∃ j, k = j + 1 := ⟨k - 1, by omega⟩
  rw [run_succ j (step_working idle he), run_counting j _ (by simp; omega)]
  simp [show t.cycles - 1 - j = t.cycles - (j + 1) by omega]

/-! ## The Unused flag -/

@[simp] theorem flag_beginInstr_u (s : State) : s.beginInstr.flag .u = true := readFlag_writeFlag_same s.p .u true

theorem flag_endInstr (t : State) (g : Flag) : t.endInstr.flag g = if g = .u then true else t.flag g :=
  flag_setFlag t .u g true

end Sys2Proof.Machine

namespace Sys2Proof

open Machine

/-- Settles O6. Mid-instruction it is `step_counting`; from Idle, with `t` the answer of the fetched instruction, the counter
after `k` steps is `t.cycles - k` (`run_within_instr`), which is 0 at the total and at no earlier step. -/
theorem sequencerStates : Obligations.SequencerStates := by
  refine ⟨fun s counting => ⟨step_counting counting, busTrace_counting counting⟩, fun s idle => ?_, activateReset_cycles⟩
  obtain ⟨t, he, two_le⟩ := exec_fetchInstr s
  rw [instrTotal_of_exec he]
  refine ⟨two_le, ⟨_, step_working idle he, rfl⟩, ⟨_, run_working idle he (by omega), rfl⟩, fun k hk hkt => ?_⟩
  exact ⟨_, run_within_instr idle he hk (by omega), Nat.sub_ne_zero_of_lt hkt⟩

/-- Settles O12: `beginInstr` forces U, `resolve` keeps `P`, and the step ends with `endInstr`, which forces U again and
leaves the other flags as the instruction left them. -/
theorem unusedFlagForcedTwice : Obligations.UnusedFlagForcedTwice := by
  refine ⟨flag_beginInstr_u, fun s f => resolve_p s f, fun s idle => ?_⟩
  obtain ⟨t, he, -⟩ := exec_fetchInstr s
  exact ⟨t, _, he, step_working idle he, by simp [flag_endInstr], fun g hg => by simp [flag_endInstr, hg]⟩

end Sys2Proof

/-! The countdown after reset and the first fetch (70_reset_and_hazards.md R262). -/

namespace Sys2Proof.Machine

/-- The first bus access of a working step is the opcode read at `PC` (20_memory.md R54). -/
theorem busTrace_idle {s : State} (idle : s.cycles = 0) :
    ∃ rest, busTrace s = .read s.pc (s.mem.read s.pc) :: rest := ⟨_, if_pos idle⟩

end Sys2Proof.Machine

namespace Sys2Proof

open Machine

/-- Settles O32. Reset leaves the counter at 8, so the first eight steps are the counting steps of `run_counting`, silent by
`busTrace_counting`; the ninth starts Idle with `PC` the vector's word, and `busTrace_idle` names its first access. -/
theorem resetLatency : Obligations.ResetLatency := by
  intro s
  refine ⟨fun k hk => run_counting k s.activateReset hk, fun k hk => ?_, busTrace_idle rfl⟩
  exact busTrace_counting (Nat.sub_pos_of_lt hk)

end Sys2Proof

/-! The decoder and the encoder against each other (30_encoding.md, sections 1 and 3). -/

namespace Sys2Proof

open Machine

/-! ## From an instruction to its bytes and back -/

/-- The bytes of a form, whatever follows them, assemble to the form again. -/
theorem formOf_bytes (f : Form) (rest : List Byte) :
    formOf f.mode ((f.bytes ++ rest).getD 0 0) ((f.bytes ++ rest).getD 1 0) = f := by
  cases f <;> simp [formOf, Form.mode, Form.bytes]

/-- The opcode byte a row of an instruction may have: EA and no other byte is the documented NOP; the NOP aliases and
the XXX slots carry their own. -/
def Instr.CarriesOpcode (op : Byte) : Instr → Prop
  | .nop => op = 0xEA#8
  | .nopAlias op' _ => op' = op ∧ op ≠ 0xEA#8
  | .xxx op' => op' = op
  | _ => True

/-- The row of an instruction, with the instruction's own bytes, gives the instruction. -/
theorem instrOf_bytes {i : Instr} {op : Byte} (h : i.CarriesOpcode op) (rest : List Byte) :
    instrOf i.mnemonic i.form.mode op ((i.form.bytes ++ rest).getD 0 0) ((i.form.bytes ++ rest).getD 1 0) = i := by
  cases i
  case nop => exact if_pos h
  case nopAlias op' f =>
    obtain ⟨rfl, hne⟩ := h
    simp only [Instr.mnemonic, Instr.form, instrOf, if_neg hne, formOf_bytes]
  case xxx op' => exact congrArg Instr.xxx h.symm
  case jsr a => exact congrArg Instr.jsr (word_hi8_lo8 a)
  all_goals simp only [Instr.mnemonic, Instr.form, instrOf, formOf_bytes] <;> rfl

/-- The tables by mnemonic stand in the grid (30_encoding.md R66 against R67). -/
theorem opcodeRow_of_documented (m : Mnemonic) :
    ∀ r ∈ documentedRows m, (opcodeRow r.2.1).mnemonic = m ∧ (opcodeRow r.2.1).mode = r.1 ∧
      (m = .nop → r.2.1 = 0xEA#8) := by
  cases m <;> decide

theorem opcodeRow_of_documentedRow {m : Mnemonic} {k : Mode} {r : Byte × Nat} (h : documentedRow m k = some r) :
    (opcodeRow r.1).mnemonic = m ∧ (opcodeRow r.1).mode = k ∧ (m = .nop → r.1 = 0xEA#8) := by
  obtain ⟨l, l', hmem, -⟩ := List.lookup_eq_some_iff.mp h
  exact opcodeRow_of_documented m (k, r) (by simp [hmem])

/-- The NOP aliases stand in the grid (30_encoding.md R68 against R67). -/
theorem opcodeRow_of_nopAlias :
    ∀ r ∈ nopAliasRows, ∀ op ∈ r.2.2, (opcodeRow op).mnemonic = .nop ∧ (opcodeRow op).mode = r.1 ∧ op ≠ 0xEA#8 := by
  have rows : (nopAliasRows.all fun r => r.2.2.all fun op =>
      decide ((opcodeRow op).mnemonic = .nop ∧ (opcodeRow op).mode = r.1 ∧ op ≠ 0xEA#8)) = true := by decide +kernel
  simpa only [List.all_eq_true, decide_eq_true_eq] using rows

/-- The XXX slots stand in the grid (30_encoding.md R69 against R67). -/
theorem opcodeRow_of_slot :
    ∀ r ∈ xxxRows, ∀ op ∈ r.2, (opcodeRow op).mnemonic = .xxx ∧ (opcodeRow op).mode = .imp := by
  have rows : (xxxRows.all fun r => r.2.all fun op =>
      decide ((opcodeRow op).mnemonic = .xxx ∧ (opcodeRow op).mode = .imp)) = true := by decide +kernel
  simpa only [List.all_eq_true, decide_eq_true_eq] using rows

/-- A well-formed instruction has an opcode byte, and the grid entry of that byte is the instruction's row. -/
theorem opcodeRow_of_wellFormed {i : Instr} (hw : i.wellFormed = true) :
    ∃ op, opcodeByte i = some op ∧ (opcodeRow op).mnemonic = i.mnemonic ∧ (opcodeRow op).mode = i.form.mode ∧
      i.CarriesOpcode op := by
  have documented : ∀ j : Instr, formAllowed j.mnemonic j.form = true →
      opcodeByte j = (documentedRow j.mnemonic j.form.mode).map (fun r => r.1) →
      (∀ op, (j.mnemonic = .nop → op = 0xEA#8) → j.CarriesOpcode op) →
      ∃ op, opcodeByte j = some op ∧ (opcodeRow op).mnemonic = j.mnemonic ∧ (opcodeRow op).mode = j.form.mode ∧
        j.CarriesOpcode op := by
    intro j hj hop hc
    obtain ⟨r, hr⟩ := documentedRow_isSome hj
    obtain ⟨hm, hk, hnop⟩ := opcodeRow_of_documentedRow hr
    exact ⟨r.1, by rw [hop, hr]; rfl, hm, hk, hc _ hnop⟩
  cases i
  case nopAlias op f =>
    simp only [Instr.wellFormed, aliasAllowed, List.any_eq_true, Bool.and_eq_true, beq_iff_eq, List.contains_iff_mem] at hw
    obtain ⟨r, hr, hk, hop⟩ := hw
    obtain ⟨hm, hmode, hne⟩ := opcodeRow_of_nopAlias r hr op hop
    exact ⟨op, by simp [opcodeByte, nopAliasRow_of_allowed r hr op hop, hk], hm, hmode.trans hk, rfl, hne⟩
  case xxx op =>
    obtain ⟨n, hn⟩ := xxxRow_of_allowed hw
    simp only [Instr.wellFormed, slotAllowed, List.any_eq_true, List.contains_iff_mem] at hw
    obtain ⟨r, hr, hop⟩ := hw
    obtain ⟨hm, hmode⟩ := opcodeRow_of_slot r hr op hop
    exact ⟨op, by simp [opcodeByte, hn], hm, hmode, rfl⟩
  case nop => exact documented .nop hw rfl fun op h => h rfl
  all_goals exact documented _ hw rfl fun _ _ => trivial

/-- Settles O2. A well-formed instruction is encoded under the opcode byte of its own row (`opcodeRow_of_wellFormed`), so the
decoder takes as many operand bytes as its form has and assembles them to the same form (`instrOf_bytes`). -/
theorem decodeOfEncode : Obligations.DecodeOfEncode := by
  intro i rest hw
  obtain ⟨op, hop, hm, hk, hc⟩ := opcodeRow_of_wellFormed hw
  rw [encode_of_opcodeByte hop, List.cons_append, decode, hk, if_neg (by simp), decodeBytes, hm, hk, instrOf_bytes hc,
    ← Form.bytes_length, List.drop_left]

/-! ## From three bytes to an instruction and back -/

theorem mnemonic_instrOf (m : Mnemonic) (k : Mode) (op b1 b2 : Byte) : (instrOf m k op b1 b2).mnemonic = m := by
  cases m
  case nop => by_cases h : op = 0xEA#8 <;> simp [instrOf, h, Instr.mnemonic]
  all_goals rfl

/-- Where the mode of a row is the one its mnemonic takes, the operand form is assembled in that mode. -/
theorem form_instrOf {m : Mnemonic} {k : Mode} {op : Byte} (b1 b2 : Byte)
    (h : (instrOf m k op 0 0).form.mode = k) : (instrOf m k op b1 b2).form = formOf k b1 b2 := by
  cases m
  case nop =>
    by_cases hop : op = 0xEA#8
    · simp only [instrOf, if_pos hop] at h ⊢
      subst h; rfl
    · simp only [instrOf, if_neg hop, Instr.form]
  case adc | sbc | asl | lsr | rol | ror | cmp | cpx | cpy | lda | ldx | ldy | sta | stx | sty | and | ora | eor | bit
      | inc | dec | jmp => rfl
  all_goals
    simp only [instrOf, Instr.form, Form.mode] at h
    subst h
    rfl

theorem form_decodeBytes (op b1 b2 : Byte) : (decodeBytes op b1 b2).form = formOf (opcodeRow op).mode b1 b2 := by
  have row_mode : ∀ op : Byte, (decodeBytes op 0 0).form.mode = (opcodeRow op).mode := by decide +kernel
  exact form_instrOf b1 b2 (row_mode op)

theorem mode_decodeBytes (op b1 b2 : Byte) : (decodeBytes op b1 b2).form.mode = (opcodeRow op).mode := by
  rw [form_decodeBytes, formOf_mode]

theorem mnemonic_decodeBytes (op b1 b2 : Byte) : (decodeBytes op b1 b2).mnemonic = (opcodeRow op).mnemonic :=
  mnemonic_instrOf _ _ op b1 b2

/-- Well-formedness and the opcode byte go by the row and the byte fetched, not by the operand bytes. -/
theorem table_instrOf (m : Mnemonic) (k : Mode) (op b1 b2 : Byte) :
    (instrOf m k op b1 b2).wellFormed = (instrOf m k op 0 0).wellFormed ∧
    opcodeByte (instrOf m k op b1 b2) = opcodeByte (instrOf m k op 0 0) := by
  have hf : ∀ m, formAllowed m (formOf k b1 b2) = formAllowed m (formOf k 0 0) := fun m => by simp [formAllowed]
  cases m
  case nop =>
    by_cases h : op = 0xEA#8 <;> simp [instrOf, h, Instr.wellFormed, opcodeByte, aliasAllowed]
  case adc | sbc | asl | lsr | rol | ror | cmp | cpx | cpy | lda | ldx | ldy | sta | stx | sty | and | ora | eor | bit
      | inc | dec | jmp => exact ⟨hf _, by simp [opcodeByte, instrOf, Instr.form, Instr.mnemonic]⟩
  all_goals exact ⟨rfl, rfl⟩

theorem wellFormed_decodeBytes (op b1 b2 : Byte) : (decodeBytes op b1 b2).wellFormed = true := by
  have all_rows : ∀ op : Byte, (decodeBytes op 0 0).wellFormed = true := by decide +kernel
  exact (table_instrOf _ _ op b1 b2).1.trans (all_rows op)

theorem opcodeByte_decodeBytes (op b1 b2 : Byte) : opcodeByte (decodeBytes op b1 b2) = some op := by
  have all_rows : ∀ op : Byte, opcodeByte (decodeBytes op 0 0) = some op := by decide +kernel
  exact (table_instrOf _ _ op b1 b2).2.trans (all_rows op)

theorem bytes_formOf (k : Mode) (b1 b2 : Byte) : (formOf k b1 b2).bytes = [b1, b2].take k.operandBytes := by
  cases k <;> simp [formOf, Form.bytes, Mode.operandBytes]

/-- Settles O3. Each of the 256 rows is checked once with operand bytes 0; the operand bytes move neither the row nor the
opcode byte (`table_instrOf`), and the form gives them back (`bytes_formOf`). -/
theorem encodeOfDecode : Obligations.EncodeOfDecode := by
  intro op b1 b2
  refine ⟨wellFormed_decodeBytes op b1 b2, mnemonic_decodeBytes op b1 b2, mode_decodeBytes op b1 b2,
    baseCycles_decodeBytes op b1 b2, ?_⟩
  rw [encode_of_opcodeByte (opcodeByte_decodeBytes op b1 b2), Instr.length, mode_decodeBytes, form_decodeBytes,
    bytes_formOf, Nat.add_comm, List.take_succ_cons]

/-! ## The instruction at `PC` -/

theorem wellFormed_fetchInstr (s : State) : s.fetchInstr.wellFormed = true := by
  rw [fetchInstr_eq]; exact wellFormed_decodeBytes _ _ _

theorem form_fetchInstr (s : State) :
    s.fetchInstr.form = formOf (opcodeRow (s.mem.read s.pc)).mode (s.mem.read (s.pc + 1)) (s.mem.read (s.pc + 2)) := by
  rw [fetchInstr_eq, form_decodeBytes]

/-- What the decoder reads from three bytes is what the three bytes decode to. -/
theorem eq_decodeBytes_of_decode {op b1 b2 : Byte} {i : Instr} {rest : List Byte}
    (h : decode [op, b1, b2] = .ok (i, rest)) : i = decodeBytes op b1 b2 := by
  have enough : ¬[b1, b2].length < (opcodeRow op).mode.operandBytes := by
    cases (opcodeRow op).mode <;> simp [Mode.operandBytes]
  rw [decode, if_neg enough] at h
  injection h with h
  exact (congrArg Prod.fst h).symm

/-- Settles O1: the thirteen words are literals, and the decoder computes on them. -/
theorem specWordsDecode : Obligations.SpecWordsDecode :=
  ⟨rfl, rfl, rfl, rfl, rfl, rfl, rfl, rfl, rfl, rfl, rfl, rfl, rfl⟩

/-- Settles O5: the decoded instruction is the fetched one (`eq_decodeBytes_of_decode`), the state with the opcode byte
fetched is `beginInstr`, and the rest is `step_working`. -/
theorem idleStepRunsDecodedInstruction : Obligations.IdleStepRunsDecodedInstruction := by
  intro s i rest idle hd
  obtain ⟨t, he, -⟩ := exec_fetchInstr s
  have hi : s.fetchInstr = i := (fetchInstr_eq s).trans (eq_decodeBytes_of_decode hd).symm
  exact ⟨t, by rw [← beginInstr_eq, ← hi]; exact he, step_working idle he⟩

end Sys2Proof

/-! Memories in canonical form (20_memory.md R41, R43; log entry 14): the list is determined by what it reads as. -/

namespace Sys2Proof.Machine.Memory

/-- Rising lists with no entry equal to the unwritten byte that look the same up at every key are the same list. -/
theorem eq_of_lookup : ∀ {m n : Memory}, m.rising = true → n.rising = true →
    (∀ e ∈ m, e.2 ≠ Config.unwrittenByte) → (∀ e ∈ n, e.2 ≠ Config.unwrittenByte) →
    (∀ k, m.lookup k = n.lookup k) → m = n
  | [], [], _, _, _, _, _ => rfl
  | [], (k, w) :: _, _, _, _, hn, h => absurd (by simpa [lookup] using (h k).symm) (hn (k, w) (by simp))
  | (j, v) :: _, [], _, _, hm, _, h => absurd (by simpa [lookup] using h j) (hm (j, v) (by simp))
  | (j, v) :: m, (k, w) :: n, rm, rn, hm, hn, h => by
    have hv := hm (j, v) (by simp)
    have hw := hn (k, w) (by simp)
    have below_m : ∀ i ≤ j, Memory.lookup m i = Config.unwrittenByte := fun i hi => lookup_of_risingAbove hi rm
    have below_n : ∀ i ≤ k, Memory.lookup n i = Config.unwrittenByte := fun i hi => lookup_of_risingAbove hi rn
    simp only [lookup] at h
    obtain hlt | rfl | hgt := Nat.lt_trichotomy j k
    · have := h j
      rw [if_pos rfl, if_neg (by omega), below_n j (by omega)] at this
      exact absurd this hv
    · have hvw := h j
      rw [if_pos rfl, if_pos rfl] at hvw
      subst hvw
      have tails : ∀ i, Memory.lookup m i = Memory.lookup n i := fun i => by
        by_cases hi : j = i
        · subst hi; rw [below_m j (Nat.le_refl j), below_n j (Nat.le_refl j)]
        · simpa [hi] using h i
      rw [eq_of_lookup (rising_of_risingAbove rm) (rising_of_risingAbove rn) (fun e he => hm e (by simp [he]))
        (fun e he => hn e (by simp [he])) tails]
    · have := h k
      rw [if_neg (by omega), if_pos rfl, below_m k (by omega)] at this
      exact absurd this.symm hw

/-- Keys outside the address space are unlisted. -/
theorem lookup_of_not_mem {k : Nat} : ∀ {m : Memory}, (∀ e ∈ m, e.1 ≠ k) → m.lookup k = Config.unwrittenByte
  | [], _ => rfl
  | (j, v) :: m, h => by
    rw [lookup, if_neg (h (j, v) (by simp)), lookup_of_not_mem fun e he => h e (by simp [he])]

theorem wf_iff (m : Memory) : m.wf = true ↔
    m.rising = true ∧ ∀ e ∈ m, e.1 < Config.memorySize ∧ e.2 ≠ Config.unwrittenByte := by
  simp [wf]

/-- Memories in canonical form that read the same everywhere are the same memory. -/
theorem eq_of_read {m n : Memory} (hm : m.wf = true) (hn : n.wf = true) (h : ∀ a, m.read a = n.read a) : m = n := by
  obtain ⟨rm, em⟩ := (wf_iff m).mp hm
  obtain ⟨rn, en⟩ := (wf_iff n).mp hn
  refine eq_of_lookup rm rn (fun e he => (em e he).2) (fun e he => (en e he).2) fun k => ?_
  by_cases hk : k < Config.memorySize
  · have := h (BitVec.ofNat 16 k)
    rwa [read, read, BitVec.toNat_ofNat, Nat.mod_eq_of_lt (show k < 2 ^ 16 from hk)] at this
  · rw [lookup_of_not_mem fun e he => by have := (em e he).1; omega,
      lookup_of_not_mem fun e he => by have := (en e he).1; omega]

/-- Writing the byte an address already holds changes nothing. -/
theorem write_read {m : Memory} (hm : m.wf = true) (a : Addr) : m.write a (m.read a) = m :=
  eq_of_read (wf_write hm _ _) hm fun b => by
    rw [read_write]; split
    · next h => rw [h]
    · rfl

end Sys2Proof.Machine.Memory

namespace Sys2Proof

open Machine

/-- Settles O16, by `Memory.eq_of_read`, the extensionality of canonical memories. -/
theorem canonicalMemoriesDetermined : Obligations.CanonicalMemoriesDetermined :=
  ⟨fun _ _ hm hn h => Memory.eq_of_read hm hn h, fun _ a hm => Memory.write_read hm a⟩

/-! ## Reset (70_reset_and_hazards.md R260 to R264) -/

/-- After reset the Unused flag alone is set (10_state.md R38). -/
theorem flag_activateReset (s : State) (g : Flag) : s.activateReset.flag g = decide (g = .u) := by
  show readFlag Config.resetP g = decide (g = .u)
  cases g <;> decide

/-- Reset establishes the invariant from any state with canonical memory. -/
theorem inv_activateReset {s : State} (h : s.mem.wf = true) : s.activateReset.Inv :=
  ⟨flag_activateReset s .u, Nat.le_refl 8, .inl (Nat.zero_le _), h⟩

/-- Settles O8, by `inv_activateReset`; on memory as created every byte of the vector reads 0x00. -/
theorem invariantHoldsAtReset : Obligations.InvariantHoldsAtReset :=
  have empty_vector : Memory.readWord [] Config.resetVector (Config.resetVector + 1) = 0x0000#16 := by decide
  ⟨inv_activateReset (s := State.reset) Memory.wf_nil, fun s =>
    congrArg (fun pc => { State.reset with pc := pc, opcode := s.opcode, accMode := s.accMode }) empty_vector⟩

/-- Settles O31: the assignments of reset are those of `activateReset`, whose values come from memory alone, which it keeps. -/
theorem resetActivation : Obligations.ResetActivation := by
  intro s
  exact ⟨s.activateReset, rfl, rfl, rfl, rfl, rfl, flag_activateReset s, rfl, word_toNat _ _, rfl, rfl, rfl, rfl, rfl, rfl,
    rfl⟩

/-- The host's writes, before whatever follows them. -/
theorem runActions_writes (rest : List Action) : ∀ (writes : List (Addr × Byte)) (s : State),
    runActions s (writes.map (fun w => Action.write w.1 w.2) ++ rest) =
      runActions { s with mem := writes.foldl (fun m w => m.write w.1 w.2) s.mem } rest
  | [], _ => rfl
  | w :: writes, s => runActions_writes rest writes (s.hostWrite w.1 w.2)

/-- The host's clock activations are a run. -/
theorem runActions_clocks : ∀ (k : Nat) (s : State), runActions s (List.replicate k .clock) = core.run k s
  | 0, _ => rfl
  | k + 1, s => by
    obtain ⟨t, ht⟩ := step_next s
    rw [run_succ k ht, ← runActions_clocks k t, List.replicate_succ, runActions, act, ht]

theorem wf_foldl_write (writes : List (Addr × Byte)) {m : Memory} (h : m.wf = true) :
    (writes.foldl (fun m w => m.write w.1 w.2) m).wf = true :=
  List.foldlRecOn (motive := fun m : Memory => m.wf = true) writes _ h fun _ hm w _ => Memory.wf_write hm w.1 w.2

/-- Settles O33: the writes make the memory, reset reads its vector and keeps it, and eight steps of `run_counting` bring the
counter from 8 to 0. -/
theorem bootOrder : Obligations.BootOrder := by
  intro s writes hwf
  let booted : State := { s with mem := writes.foldl (fun m w => m.write w.1 w.2) s.mem }
  obtain ⟨hu, -, hrel, hmem⟩ := inv_activateReset (s := booted) (wf_foldl_write writes hwf)
  refine ⟨{ booted.activateReset with cycles := 0 }, ?_, rfl, rfl, rfl, hu, Nat.zero_le 8, hrel, hmem⟩
  rw [runActions_writes, runActions, act]
  exact (runActions_clocks 8 _).trans (run_counting 8 booted.activateReset (Nat.le_refl 8))

/-! ## Runs (50_sequencer.md R226, 92_eei_decisions.md D15) -/

/-- Settles O7: both views end in the state the fetched instruction answers, with U set and the counter 0; before that the
counter is what remains of the total (`run_within_instr`). -/
theorem instructionViewAgreesWithClock : Obligations.InstructionViewAgreesWithClock := by
  intro s idle
  obtain ⟨t, he, two_le⟩ := exec_fetchInstr s
  refine ⟨{ t.endInstr with cycles := 0 }, by rw [execInstr, runInstr, he]; rfl, rfl, ?_⟩
  rw [instrTotal_of_exec he]
  exact ⟨run_working idle he (by omega), fun k hk hkt =>
    ⟨_, run_within_instr idle he hk (by omega), Nat.sub_ne_zero_of_lt hkt⟩⟩

/-- `t` is the state after `k` steps from `s`, and the first of the run in which the predicate holds. -/
def FirstEnd (ended : EndOfRun) (k : Nat) (s t : State) : Prop :=
  core.run k s = .next t ∧ ended t = true ∧
    ∀ (j : Nat) (u : State), j < k → core.run j s = .next u → ended u = false

theorem firstEnd_of_ended {ended : EndOfRun} {s : State} (h : ended s = true) (k : Nat) (t : State) :
    FirstEnd ended k s t ↔ k = 0 ∧ t = s := by
  constructor
  · rintro ⟨hr, -, hfirst⟩
    obtain rfl | hk := Nat.eq_zero_or_pos k
    · exact ⟨rfl, run_zero.mp hr⟩
    · exact absurd h (Bool.eq_false_iff.mp (hfirst 0 s hk rfl))
  · rintro ⟨rfl, rfl⟩
    exact ⟨rfl, h, fun j _ hj => absurd hj (Nat.not_lt_zero j)⟩

theorem not_firstEnd_zero {ended : EndOfRun} {s : State} (h : ended s = false) (t : State) :
    ¬FirstEnd ended 0 s t := by
  rintro ⟨hr, ht, -⟩
  rw [run_zero.mp hr, h] at ht
  exact absurd ht Bool.false_ne_true

theorem firstEnd_succ {ended : EndOfRun} {s s' : State} (h : ended s = false) (hs : step s = .next s') (k : Nat)
    (t : State) : FirstEnd ended (k + 1) s t ↔ FirstEnd ended k s' t := by
  unfold FirstEnd
  rw [run_succ k hs]
  refine and_congr_right fun _ => and_congr_right fun _ => ⟨fun hfirst j u hj hr => ?_, fun hfirst j u hj hr => ?_⟩
  · exact hfirst (j + 1) u (by omega) (by rw [run_succ j hs, hr])
  · cases j with
    | zero => rw [run_zero.mp hr, h]
    | succ j => exact hfirst j u (by omega) (by rw [← run_succ j hs, hr])

theorem runUntil_of_ended {ended : EndOfRun} {s : State} (h : ended s = true) (fuel : Nat) :
    runUntil ended fuel s = some s := by
  cases fuel <;> rw [runUntil, if_pos h]

theorem runUntil_succ {ended : EndOfRun} {s s' : State} (h : ended s = false) (hs : step s = .next s') (fuel : Nat) :
    runUntil ended (fuel + 1) s = runUntil ended fuel s' := by
  rw [runUntil, h, hs]; rfl

/-- Clocking until the end answers exactly the first state of the run in which the predicate holds. -/
theorem runUntil_eq_some_iff (ended : EndOfRun) (fuel : Nat) (s t : State) :
    runUntil ended fuel s = some t ↔ ∃ k, k ≤ fuel ∧ FirstEnd ended k s t := by
  induction fuel generalizing s with
  | zero =>
    cases h : ended s
    · simp [runUntil, h, not_firstEnd_zero h]
    · simp [runUntil_of_ended h, firstEnd_of_ended h, eq_comm]
  | succ fuel ih =>
    cases h : ended s
    · obtain ⟨s', hs⟩ := step_next s
      rw [runUntil_succ h hs, ih s']
      constructor
      · rintro ⟨k, hk, hf⟩
        exact ⟨k + 1, by omega, (firstEnd_succ h hs k t).mpr hf⟩
      · rintro ⟨k, hk, hf⟩
        cases k with
        | zero => exact absurd hf (not_firstEnd_zero h t)
        | succ k => exact ⟨k, by omega, (firstEnd_succ h hs k t).mp hf⟩
    · simp [runUntil_of_ended h, firstEnd_of_ended h, eq_comm]

/-- Settles O35: the statement is `runUntil_eq_some_iff` with `FirstEnd` written out. -/
theorem runEndsAtFirstEnd : Obligations.RunEndsAtFirstEnd := runUntil_eq_some_iff

end Sys2Proof

/-! The rules of 40_addressing_modes.md, mode by mode, as numbers. -/

namespace Sys2Proof.Machine

/-- An address in page 0 written as a number. -/
theorem zext16_eq_ofNat (b : Byte) : zext16 b = BitVec.ofNat 16 b.toNat := by
  apply BitVec.eq_of_toNat_eq
  have := b.isLt
  rw [zext16_toNat, BitVec.toNat_ofNat]; omega

theorem readWord_toNat (m : Memory) (a b : Addr) :
    (m.readWord a b).toNat = (m.read b).toNat * 256 + (m.read a).toNat := word_toNat _ _

/-- A word with low byte 0 is the start of its page. -/
theorem word_zero_eq_ofNat (h : Byte) : word h 0x00#8 = BitVec.ofNat 16 (h.toNat * 256) := by
  apply BitVec.eq_of_toNat_eq
  have := h.isLt
  rw [word_toNat, BitVec.toNat_ofNat, BitVec.toNat_ofNat]; omega

/-- The sum of an address and an unsigned index lies in another page exactly when the low byte overflows. -/
theorem page_cross_iff (w : Addr) (x : Byte) :
    (w + zext16 x).toNat / 256 ≠ w.toNat / 256 ↔ 256 ≤ w.toNat % 256 + x.toNat := by
  have := w.isLt; have := x.isLt
  rw [add_zext16_toNat]; omega

/-- The unindexed address of IZY: the content of its pointer (40_addressing_modes.md R92). -/
def izyBase (o : Byte) (s : State) : Addr := s.mem.readWord (zext16 o) (zext16 (o + 1))

theorem hi8_izyBase (o : Byte) (s : State) : hi8 (izyBase o s) = s.mem.read (zext16 (o + 1)) := hi8_word _ _

theorem modeExtra_izy (o : Byte) (s : State) :
    modeExtra (.izy o) s = (hi8 (izyBase o s + zext16 s.y) != hi8 (izyBase o s)) := by rw [hi8_izyBase]; rfl

end Sys2Proof.Machine

namespace Sys2Proof

open Machine

/-- Settles O23: the address is the zero-extended 8-bit sum; the last part searches the documented rows. -/
theorem zeroPageModes : Obligations.ZeroPageModes := by
  refine ⟨fun o s => ⟨zext16_toNat o, ?_, ?_, ?_⟩, fun b1 b2 => ⟨rfl, rfl, rfl⟩, fun m => ?_⟩
  · exact (zext16_toNat _).trans (BitVec.toNat_add o s.x)
  · exact (zext16_toNat _).trans (BitVec.toNat_add o s.y)
  · simp [Form.mode, Mode.operandBytes, modeExtra]
  · cases m <;> decide

/-- Settles O25: the pointer is `word phi plo`, and the page-wrap test looks at its low byte. Which bytes have mode IND is
`mode_decodeBytes` and a check of the 256 rows. -/
theorem indirectPageWrap : Obligations.IndirectPageWrap := by
  have rows : ∀ op : Byte, (opcodeRow op).mode = .ind ↔ op = 0x6C#8 := by decide +kernel
  refine ⟨fun plo phi s => ⟨word phi plo, word_toNat phi plo, rfl, ?_, rfl, rfl⟩, ?_, rows, fun op b1 b2 => ?_,
    fun b1 b2 => mnemonic_decodeBytes 0x6C#8 b1 b2⟩
  · have low_byte : plo = 0xFF#8 ↔ plo.toNat = 255 := by rw [← BitVec.toNat_inj]; rfl
    rw [resolve_addrAbs, effectiveAddress, readWord_toNat, lo8_word, hi8_word, word_zero_eq_ofNat]
    simp only [low_byte]
  · intro m op n h
    obtain ⟨hm, hk, -⟩ := opcodeRow_of_documentedRow h
    obtain rfl := (rows op).mp hk
    exact ⟨hm.symm.trans (by decide : (opcodeRow 0x6C#8).mnemonic = .jmp), rfl⟩
  · rw [mode_decodeBytes, rows]

/-- Settles O26: both pointers lie in page 0 because the 8-bit sum is zero-extended after it has wrapped; IZY's signal is
`hi8_bne` of the pointer's content. -/
theorem zeroPagePointers : Obligations.ZeroPagePointers := by
  have pointer : ∀ (o x : Byte), zext16 (o + x) = BitVec.ofNat 16 ((o.toNat + x.toNat) % 256) := fun o x => by
    rw [zext16_eq_ofNat, BitVec.toNat_add]
  refine ⟨fun o s => ⟨?_, rfl, rfl⟩, fun o s => ⟨_, rfl, ?_, ?_, rfl⟩⟩
  · rw [resolve_addrAbs, effectiveAddress, readWord_toNat, pointer, pointer, BitVec.toNat_add]
    simp
  all_goals
    rw [show _ * 256 + _ = (izyBase o s).toNat by
      rw [izyBase, readWord_toNat, pointer, zext16_eq_ofNat]; rfl]
  · exact add_zext16_toNat _ _
  · rw [modeExtra_izy]; exact hi8_bne _ _

/-- Settles O28: each indexed signal compares the high bytes of the sum and of the unindexed address, which differ exactly when
the low byte overflows (`page_cross_iff`). -/
theorem pageCrossSignal : Obligations.PageCrossSignal := by
  intro s
  have signal : ∀ (w : Addr) (x : Byte), (hi8 (w + zext16 x) != hi8 w) = decide (256 ≤ w.toNat % 256 + x.toNat) := by
    intro w x
    rw [Bool.eq_iff_iff, hi8_bne, page_cross_iff, decide_eq_true_iff]
  refine ⟨fun w => signal w s.x, fun w => signal w s.y, fun o => ?_, fun f hf => ?_⟩
  · have low : (izyBase o s).toNat % 256 = (s.mem.read (BitVec.ofNat 16 o.toNat)).toNat := by
      rw [← lo8_toNat, izyBase, Memory.readWord, lo8_word, zext16_eq_ofNat]
    rw [modeExtra_izy, signal, low]
  · cases f
    case abx | aby | izy => simp [Form.mode] at hf
    all_goals rfl

/-- Settles O27; the offset of REL is `sext16_toInt`. -/
theorem impliedImmediateRelative : Obligations.ImpliedImmediateRelative := by
  refine ⟨fun s => ⟨?_, rfl⟩, fun o s => ⟨?_, rfl⟩, fun o s => ⟨sext16 o, sext16_toInt o, ?_, rfl⟩⟩
  all_goals simp [resolve, effectiveAddress, relativeOffset, Form.mode, Mode.operandBytes]

end Sys2Proof

/-! What every instruction leaves alone: the registers, the flags (10_state.md R24) and, from `exec_cases` and `exec_mem`,
memory and the decode state. Together they are the frame of the instruction. -/

namespace Sys2Proof

open Machine

/-- What holds of the answer of an instruction holds of any state named as its answer. -/
theorem of_exec {i : Instr} {s t : State} {P : State → Prop} (he : exec i s = .next t)
    (h : ∃ t, exec i s = .next t ∧ P t) : P t := by
  obtain ⟨t', he', hp⟩ := h
  rw [he] at he'
  injection he' with ht
  exact ht ▸ hp

/-- The registers an instruction writes; a shift writes A in accumulator mode alone. -/
def regsWritten (i : Instr) (s : State) : List Reg :=
  match i with
  | .adc _ | .sbc _ | .lda _ | .and _ | .ora _ | .eor _ | .txa | .tya => [.a]
  | .asl f | .lsr f | .rol f | .ror f => if onAccumulator f s then [.a] else []
  | .ldx _ | .tax | .tsx | .inx | .dex => [.x]
  | .ldy _ | .tay | .iny | .dey => [.y]
  | .pla => [.a, .sp]
  | .txs | .pha | .php | .plp | .jsr _ | .rts | .brk | .rti => [.sp]
  | .cmp _ | .cpx _ | .cpy _ | .bcc _ | .bcs _ | .beq _ | .bne _ | .bmi _ | .bpl _ | .bvc _ | .bvs _ | .sta _ | .stx _
  | .sty _ | .nop | .bit _ | .inc _ | .dec _ | .clc | .sec | .cli | .sei | .cld | .sed | .clv | .jmp _
  | .nopAlias _ _ | .xxx _ => []

/-- An instruction keeps every register it is not listed for. -/
theorem exec_keeps_reg (i : Instr) (s : State) :
    ∃ t, exec i s = .next t ∧ ∀ r, r ∉ regsWritten i s → t.reg r = s.reg r := by
  cases i
  case asl f | lsr f | rol f | ror f =>
    refine ⟨_, rfl, fun r hr => ?_⟩
    cases h : onAccumulator f s <;> cases r <;>
      simp_all [regsWritten, State.reg, onAccumulator, Instr.form]
  all_goals exact ⟨_, rfl, fun r hr => by cases r <;> simp_all [regsWritten, State.reg]⟩

/-- An instruction keeps every flag it is not listed for. -/
theorem exec_keeps_flag (i : Instr) (s : State) :
    ∃ t, exec i s = .next t ∧ ∀ g, g ∉ flagsWritten i.mnemonic → t.flag g = s.flag g := by
  cases i
  case bcc | bcs | beq | bne | bmi | bpl | bvc | bvs | sta | stx | sty | pha | jsr | rts | txs | jmp | nop | nopAlias
      | xxx => exact ⟨_, rfl, fun g _ => rfl⟩
  case plp | rti => exact ⟨_, rfl, fun g hg => by cases g <;> simp [flagsWritten, Instr.mnemonic] at hg⟩
  all_goals
    refine ⟨_, rfl, fun g hg => ?_⟩
    simp only [flagsWritten, Instr.mnemonic, List.mem_cons, List.not_mem_nil, not_or, or_false] at hg
    simp [flag_setSumFlags, flag_setCompareFlags, flag_setShiftFlags, flag_setBitFlags, flag_setZN, flag_setFlag,
      takeTrap_flag, hg]

/-- Settles O20, by `exec_keeps_flag`. -/
theorem onlyListedFlagsWritten : Obligations.OnlyListedFlagsWritten := exec_keeps_flag

/-- Stores keep every byte at another address. -/
theorem read_writeAll_other {a : Addr} : ∀ {cells : List (Addr × Byte)} {m : Memory}, a ∉ cells.map Prod.fst →
    (writeAll m cells).read a = m.read a
  | [], _, _ => rfl
  | (b, v) :: cells, m, h => by
    simp only [List.map_cons, List.mem_cons, not_or] at h
    exact (read_writeAll_other h.2).trans (Memory.read_write_other m v h.1)

/-- The frame of an instruction: it leaves everything but the registers, flags and bytes it is listed for. -/
theorem frame_of_exec {i : Instr} {s t : State} {n : Nat} {flags : List Flag} (he : exec i s = .next t)
    (hn : t.cycles = cycleTotal i n s)
    (hf : ∀ g ∈ flagsWritten i.mnemonic, g ∈ flags := by simp [Instr.mnemonic, flagsWritten]) :
    Frame i (regsWritten i s) flags ((storedBytes i s).map Prod.fst) n s t := by
  obtain ⟨b, m, hb, ⟨hop, habs, hrel, hacc, -⟩, -⟩ := exec_cases i s
  rw [he] at hb
  injection hb with ht
  exact {
    regs_kept := of_exec he (exec_keeps_reg i s)
    flags_kept := fun g hg => of_exec he (exec_keeps_flag i s) g fun h => hg (hf g h)
    memory_kept := fun a ha => by rw [of_exec he (exec_mem i s), read_writeAll_other ha]
    opcode_kept := by rw [ht]; exact hop
    addr_abs := by rw [ht]; exact habs
    addr_rel := by rw [ht]; exact hrel
    acc_mode := by rw [ht, armCycles_accMode, hacc]; simp
    cycles_armed := hn }

/-! ## The stack (10_state.md R16 to R18) -/

/-- Only the transfers to SP, the pushes and the pulls are listed for SP. -/
theorem sp_not_mem_regsWritten {i : Instr} (s : State)
    (h : i.mnemonic ∉ [.txs, .pha, .php, .pla, .plp, .jsr, .rts, .brk, .rti]) : Reg.sp ∉ regsWritten i s := by
  cases i
  case asl f | lsr f | rol f | ror f => cases hacc : onAccumulator f s <;> simp [regsWritten, hacc]
  case txs | pha | php | pla | plp | jsr | rts | brk | rti => simp [Instr.mnemonic] at h
  all_goals simp [regsWritten]

/-- Settles O17: push and pull are their definitions; TXS, TSX and the eight stack instructions are run, and any other keeps SP
by `exec_keeps_reg`. -/
theorem stackPointerDiscipline : Obligations.StackPointerDiscipline := by
  refine ⟨stackAddr_toNat, fun s v => ⟨rfl, rfl, ?_, ?_⟩, fun i s => ?_⟩
  · rw [pull_fst, push_sp, push_mem, BitVec.sub_add_cancel, Memory.read_write_same]
  · rw [pull_sp, push_sp, BitVec.sub_add_cancel]
  · obtain ⟨t, he, kept⟩ := exec_keeps_reg i s
    refine ⟨t, he, ?_, ?_, ?_, ?_, ?_, ?_, ?_, ?_, fun h => kept .sp (sp_not_mem_regsWritten s h)⟩
    · rintro rfl; cases he; rfl
    · rintro rfl; cases he; rfl
    · rintro (rfl | rfl) <;> cases he <;> rfl
    · rintro (rfl | rfl) <;> cases he <;> rfl
    · intro h
      cases i <;> simp only [Instr.mnemonic, reduceCtorEq] at h
      cases he; exact byte_sub_one_one s.sp
    · rintro rfl; cases he; exact byte_add_one_one s.sp
    · rintro rfl; cases he
      simp [byte_sub_one_one, byte_sub_two_one]
    · rintro rfl; cases he
      simp [byte_add_one_one, byte_add_two_one]

/-- Settles O18: `takeTrap_mem`, `returnFromTrap_pc` and `returnFromTrap_flag` at the boundary, where the stack addresses compute. -/
theorem stackWrapsInPageOne : Obligations.StackWrapsInPageOne := by
  have slot0 : stackAddr 0x00#8 = 0x0100#16 := by decide
  have slot1 : stackAddr 0x01#8 = 0x0101#16 := by decide
  have slotFF : stackAddr 0xFF#8 = 0x01FF#16 := by decide
  refine ⟨fun s v => ?_, fun s => ?_, fun s w => ?_, fun s => ?_, fun s => ⟨?_, ?_⟩, fun s => ⟨?_, ?_, fun g hb hu => ?_⟩⟩
  · simp [State.push, slot0]
  · simp [State.pull, slot0]
  · simp [State.pushWord, State.push, slot0, slotFF]
  · simp [State.pullWord, State.pull, slot0, slotFF]
  · simp
  · simp [takeTrap_mem, slot0, slot1, slotFF]
  · simp
  · simp [returnFromTrap_pc, slot0, slot1]
  · simp [returnFromTrap_flag, slotFF, hb, hu]

end Sys2Proof

/-! Results of the instructions that take an operand (41_arithmetic.md, 43_compares.md, 46_load_store_transfer.md,
48_logic_incdec_flags_jump.md). Each frame is `frame_of_exec`. -/

namespace Sys2Proof

open Machine

/-! ## ADC and SBC -/

theorem flag_c_afterSum (i : Instr) (m : Byte) (s : State) :
    (afterSum i m s).flag .c = (addWithCarry s.a m (s.flag .c)).carry := by
  simp [afterSum, State.addToAccumulator, flag_setSumFlags]

theorem flag_v_afterSum (i : Instr) (m : Byte) (s : State) :
    (afterSum i m s).flag .v = (addWithCarry s.a m (s.flag .c)).overflow := by
  simp [afterSum, State.addToAccumulator, flag_setSumFlags]

theorem znOf_afterSum (i : Instr) (m : Byte) (s : State) : ZNOf (afterSum i m s).a (afterSum i m s) :=
  znOf_setZN _ _

/-- Settles O36: the sum, its carry and its overflow are the `addWithCarry` lemmas. -/
theorem adcResult : Obligations.AdcResult := by
  intro f s
  exact ⟨_, exec_adc f s, afterSum_a_toNat _ _ s, (flag_c_afterSum _ _ s).trans (addWithCarry_carry _ _ _),
    (flag_v_afterSum _ _ s).trans (addWithCarry_overflow _ _ _), znOf_afterSum _ _ s, rfl,
    frame_of_exec (exec_adc f s) rfl⟩

/-- Settles O37: `afterSum` of the one's complement is the subtraction, so the `subtractWithBorrow` lemmas apply. -/
theorem sbcResult : Obligations.SbcResult := by
  intro f s
  exact ⟨_, exec_sbc f s, subtractWithBorrow_value _ _ _,
    (flag_c_afterSum _ _ s).trans (subtractWithBorrow_carry _ _ _),
    (flag_v_afterSum _ _ s).trans (subtractWithBorrow_overflow _ _ _), znOf_afterSum _ _ s, rfl,
    frame_of_exec (exec_sbc f s) rfl⟩

/-! ## Compares -/

theorem flag_c_setCompareFlags (t : State) (r m : Byte) :
    (t.setCompareFlags r m).flag .c = decide (m.toNat ≤ r.toNat) := flag_setCompareFlags t .c r m

theorem znOf_setCompareFlags (t : State) (r m : Byte) :
    ∃ d : Byte, d.toNat = (256 + r.toNat - m.toNat) % 256 ∧ ZNOf d (t.setCompareFlags r m) := by
  refine ⟨r - m, ?_, znOf_setZN _ _⟩
  have := m.isLt
  rw [BitVec.toNat_sub]; omega

/-- Settles O42: the three differ in the register alone. -/
theorem compareResults : Obligations.CompareResults := by
  intro f s e he
  simp only [List.mem_cons, List.not_mem_nil, or_false] at he
  obtain rfl | rfl | rfl := he <;>
  exact ⟨_, rfl, flag_c_setCompareFlags _ _ _, znOf_setCompareFlags _ _ _, rfl, frame_of_exec rfl rfl⟩

/-! ## Loads, stores and transfers -/

/-- Settles O44: the three differ in the register alone, which takes the operand byte whose Z and N are then set. -/
theorem loadResults : Obligations.LoadResults := by
  intro f s e he
  simp only [List.mem_cons, List.not_mem_nil, or_false] at he
  obtain rfl | rfl | rfl := he <;>
  exact ⟨_, rfl, rfl, znOf_setZN _ _, rfl, frame_of_exec rfl rfl⟩

/-- Settles O45, by `Memory.read_write_same`. -/
theorem storeResults : Obligations.StoreResults := by
  intro f s e he
  simp only [List.mem_cons, List.not_mem_nil, or_false] at he
  obtain rfl | rfl | rfl := he <;>
  exact ⟨_, rfl, Memory.read_write_same _ _ _, rfl, frame_of_exec rfl rfl⟩

/-- Settles O46. No transfer has an operand byte, so `PC` stays. -/
theorem transferResults : Obligations.TransferResults := by
  intro s
  refine ⟨fun e he => ?_, ⟨_, rfl, rfl, BitVec.add_zero s.pc, frame_of_exec rfl rfl⟩⟩
  simp only [List.mem_cons, List.not_mem_nil, or_false] at he
  obtain rfl | rfl | rfl | rfl | rfl := he <;>
  exact ⟨_, rfl, rfl, znOf_setZN _ _, BitVec.add_zero s.pc, frame_of_exec rfl rfl⟩

/-! ## Logic and BIT -/

/-- Settles O47: the bits of the result by the `getLsbD` lemma of each operation. -/
theorem logicResults : Obligations.LogicResults := by
  intro f s e he
  simp only [List.mem_cons, List.not_mem_nil, or_false] at he
  obtain rfl | rfl | rfl := he
  · exact ⟨_, rfl, fun j _ => BitVec.getLsbD_and, znOf_setZN _ _, rfl, frame_of_exec rfl rfl⟩
  · exact ⟨_, rfl, fun j _ => BitVec.getLsbD_or, znOf_setZN _ _, rfl, frame_of_exec rfl rfl⟩
  · exact ⟨_, rfl, fun j _ => BitVec.getLsbD_xor, znOf_setZN _ _, rfl, frame_of_exec rfl rfl⟩

/-- Two bytes have no common bit exactly when their conjunction is 0. -/
theorem and_eq_zero_iff (a m : Byte) :
    (a &&& m == 0x00#8) = true ↔ ∀ j, j < 8 → ¬(a.getLsbD j = true ∧ m.getLsbD j = true) := by
  rw [beq_iff_eq]
  constructor
  · intro h j _ hj
    have hbit := congrArg (fun v : Byte => v.getLsbD j) h
    simp [hj] at hbit
  · intro h
    apply BitVec.eq_of_getLsbD_eq
    intro j hj
    simpa using h j hj

/-- Settles O48: the three flags by `flag_setBitFlags`, Z by `and_eq_zero_iff`. -/
theorem bitResult : Obligations.BitResult := by
  intro f s
  have flag (g : Flag) := flag_setBitFlags (resolve f s) g s.a (operandOf f s)
  exact ⟨_, rfl, (flag .z).congr_left.trans (and_eq_zero_iff _ _), flag .n, flag .v, rfl, frame_of_exec rfl rfl⟩

/-! ## Increments and decrements -/

theorem toNat_sub_one (v : Byte) : (v - 1#8).toNat = (v.toNat + 255) % 256 := by
  rw [BitVec.toNat_sub, Nat.add_comm]; rfl

/-- Settles O49: `storeByte` leaves the result at the effective address; the decrement adds 255 (`toNat_sub_one`). -/
theorem incDecMemoryResults : Obligations.IncDecMemoryResults := by
  intro f s e he
  simp only [List.mem_cons, List.not_mem_nil, or_false] at he
  obtain rfl | rfl := he
  · exact ⟨_, rfl, ⟨operandOf f s + 1, BitVec.toNat_add _ _, Memory.read_write_same _ _ _, znOf_setZN _ _⟩, rfl,
      frame_of_exec rfl rfl⟩
  · exact ⟨_, rfl, ⟨operandOf f s - 1, toNat_sub_one _, Memory.read_write_same _ _ _, znOf_setZN _ _⟩, rfl,
      frame_of_exec rfl rfl⟩

/-- Settles O50, with `toNat_sub_one` for the decrements; no operand byte, so `PC` stays. -/
theorem incDecRegisterResults : Obligations.IncDecRegisterResults := by
  intro s e he
  simp only [List.mem_cons, List.not_mem_nil, or_false] at he
  obtain rfl | rfl | rfl | rfl := he
  · exact ⟨_, rfl, BitVec.toNat_add _ _, znOf_setZN _ _, BitVec.add_zero s.pc, frame_of_exec rfl rfl⟩
  · exact ⟨_, rfl, BitVec.toNat_add _ _, znOf_setZN _ _, BitVec.add_zero s.pc, frame_of_exec rfl rfl⟩
  · exact ⟨_, rfl, toNat_sub_one _, znOf_setZN _ _, BitVec.add_zero s.pc, frame_of_exec rfl rfl⟩
  · exact ⟨_, rfl, toNat_sub_one _, znOf_setZN _ _, BitVec.add_zero s.pc, frame_of_exec rfl rfl⟩

/-! ## Flag instructions, JMP, NOP -/

/-- Settles O51: each of the seven is one forced write of its flag. -/
theorem flagInstructionResults : Obligations.FlagInstructionResults := by
  intro s e he
  simp only [List.mem_cons, List.not_mem_nil, or_false] at he
  obtain rfl | rfl | rfl | rfl | rfl | rfl | rfl := he <;>
  exact ⟨_, rfl, readFlag_writeFlag_same _ _ _, BitVec.add_zero s.pc, frame_of_exec rfl rfl⟩

/-- Settles O52: the semantics copies `addr_abs` into `PC`, whatever the form. -/
theorem jumpResult : Obligations.JumpResult := fun _ _ => ⟨_, rfl, rfl, frame_of_exec rfl rfl⟩

/-- Settles O60: the semantics of the three is the identity, so the resolver alone moves `PC`. -/
theorem nopResults : Obligations.NopResults := by
  intro op f s i hi
  simp only [List.mem_cons, List.not_mem_nil, or_false] at hi
  obtain rfl | rfl | rfl := hi <;> exact ⟨_, rfl, rfl, frame_of_exec rfl rfl⟩

end Sys2Proof

/-! Shifts and rotates, on the accumulator or on memory (42_shifts_rotates.md). -/

namespace Sys2Proof

open Machine

/-- The state after a shift `i` with result `r`: flags, then write-back (R110). -/
def afterShift (i : Instr) (r : Shifted) (s : State) : State :=
  (((resolve i.form s).setShiftFlags r).writeBack r.value).armCycles (cycleTotal i 0 s)

theorem exec_asl (f : Form) (s : State) :
    exec (.asl f) s = .next (afterShift (.asl f) (shiftLeft (operandOf f s)) s) := rfl

theorem exec_lsr (f : Form) (s : State) :
    exec (.lsr f) s = .next (afterShift (.lsr f) (shiftRight (operandOf f s)) s) := rfl

theorem exec_rol (f : Form) (s : State) :
    exec (.rol f) s = .next (afterShift (.rol f) (rotateLeft (operandOf f s) (s.flag .c)) s) := rfl

theorem exec_ror (f : Form) (s : State) :
    exec (.ror f) s = .next (afterShift (.ror f) (rotateRight (operandOf f s) (s.flag .c)) s) := rfl

section
variable (i : Instr) (r : Shifted) (s : State)

/-- The write-back contract: the result goes to the accumulator, or to the byte at the effective address. -/
theorem afterShift_target :
    if onAccumulator i.form s then (afterShift i r s).a = r.value
    else (afterShift i r s).mem.read (effectiveAddress i.form s) = r.value := by
  cases h : onAccumulator i.form s <;> rw [onAccumulator] at h
  · rw [if_neg Bool.false_ne_true, afterShift, armCycles_mem, writeBack_mem, setShiftFlags_accMode, h]
    exact Memory.read_write_same _ _ _
  · rw [if_pos rfl, afterShift, armCycles_a, writeBack_a, setShiftFlags_accMode, h, if_pos rfl]

theorem flag_afterShift (g : Flag) : (afterShift i r s).flag g =
    if g = .n then r.value.msb else if g = .z then r.value == 0x00#8 else if g = .c then r.out else s.flag g := by
  rw [afterShift, flag_armCycles, flag_writeBack, flag_setShiftFlags, flag_resolve]

theorem flag_c_afterShift : (afterShift i r s).flag .c = r.out := flag_afterShift i r s .c

theorem flag_n_afterShift : (afterShift i r s).flag .n = r.value.msb := flag_afterShift i r s .n

theorem znOf_afterShift : ZNOf r.value (afterShift i r s) :=
  ⟨(flag_afterShift i r s .z).trans (beq_eq_decide _ _), flag_afterShift i r s .n⟩

theorem afterShift_pc : (afterShift i r s).pc = nextPc i s := by
  rw [afterShift, armCycles_pc, writeBack_pc]; rfl

end

/-- The frame of a shift, which stores one byte or none. -/
theorem frame_of_shift {i : Instr} {s : State} {r : Shifted} {v : Byte} (he : exec i s = .next (afterShift i r s))
    (hs : storedBytes i s = if onAccumulator i.form s then [] else [(effectiveAddress i.form s, v)])
    (hf : ∀ g ∈ flagsWritten i.mnemonic, g ∈ [.c, .z, .n] := by simp [Instr.mnemonic, flagsWritten]) :
    Frame i (regsWritten i s) [.c, .z, .n] (if onAccumulator i.form s then [] else [effectiveAddress i.form s]) 0 s
      (afterShift i r s) := by
  have stored : (storedBytes i s).map Prod.fst =
      if onAccumulator i.form s then [] else [effectiveAddress i.form s] := by rw [hs]; split <;> rfl
  rw [← stored]
  exact frame_of_exec he rfl hf

/-! The bits shifted out and the values, as numbers. -/

theorem getLsbD_seven (m : Byte) : m.getLsbD 7 = decide (128 ≤ m.toNat) := by
  exact (BitVec.msb_eq_getLsbD_last m).symm.trans (BitVec.msb_eq_decide m)

theorem getLsbD_zero (m : Byte) : m.getLsbD 0 = decide (m.toNat % 2 = 1) := Nat.testBit_zero m.toNat

theorem shiftRight_toNat (m : Byte) : (shiftRight m).value.toNat = m.toNat / 2 := by
  have := m.isLt
  rw [shiftRight_value, BitVec.toNat_ofNat]; omega

theorem rotateRight_toNat (m : Byte) (c : Bool) : (rotateRight m c).value.toNat = m.toNat / 2 + 128 * c.toNat := by
  have := m.isLt; have := c.toNat_le
  rw [rotateRight_value, BitVec.toNat_ofNat]; omega

/-- N after a shift to the right is the bit shifted in. -/
theorem shiftRight_msb (m : Byte) : (shiftRight m).value.msb = false := by
  have := m.isLt
  rw [BitVec.msb_eq_decide, shiftRight_toNat, decide_eq_false_iff_not]; omega

theorem rotateRight_msb (m : Byte) (c : Bool) : (rotateRight m c).value.msb = c := by
  have := m.isLt
  rw [BitVec.msb_eq_decide, rotateRight_toNat]
  cases c
  · simp; omega
  · simp

/-- Settles O39, by the `afterShift` lemmas. -/
theorem shiftResults : Obligations.ShiftResults := by
  intro f s
  constructor
  · refine ⟨_, exec_asl f s, (shiftLeft (operandOf f s)).value, ?_, afterShift_target (.asl f) _ s, ?_,
      znOf_afterShift (.asl f) _ s, afterShift_pc (.asl f) _ s, frame_of_shift (exec_asl f s) rfl⟩
    · rw [shiftLeft_value, BitVec.toNat_ofNat]
    · rw [flag_c_afterShift]; exact getLsbD_seven _
  · refine ⟨_, exec_lsr f s, (shiftRight (operandOf f s)).value, shiftRight_toNat _, afterShift_target (.lsr f) _ s, ?_,
      znOf_afterShift (.lsr f) _ s, ?_, afterShift_pc (.lsr f) _ s, frame_of_shift (exec_lsr f s) rfl⟩
    · rw [flag_c_afterShift]; exact getLsbD_zero _
    · rw [flag_n_afterShift, shiftRight_msb]

/-- Settles O40, as O39, with the old carry in the vacated bit. -/
theorem rotateResults : Obligations.RotateResults := by
  intro f s
  constructor
  · refine ⟨_, exec_rol f s, (rotateLeft (operandOf f s) (s.flag .c)).value, ?_, afterShift_target (.rol f) _ s, ?_,
      znOf_afterShift (.rol f) _ s, afterShift_pc (.rol f) _ s, frame_of_shift (exec_rol f s) rfl⟩
    · rw [rotateLeft_value, BitVec.toNat_ofNat]
    · rw [flag_c_afterShift]; exact getLsbD_seven _
  · refine ⟨_, exec_ror f s, (rotateRight (operandOf f s) (s.flag .c)).value, rotateRight_toNat _ _,
      afterShift_target (.ror f) _ s, ?_, znOf_afterShift (.ror f) _ s, ?_, afterShift_pc (.ror f) _ s,
      frame_of_shift (exec_ror f s) rfl⟩
    · rw [flag_c_afterShift]; exact getLsbD_zero _
    · rw [flag_n_afterShift, rotateRight_msb]

/-! ## Nine rotations -/

/-- The forms ROL has a row for (30_encoding.md R66). -/
theorem rol_forms {f : Form} (h : (Instr.rol f).wellFormed = true) :
    f.mode = .imp ∨ f.mode = .zp0 ∨ f.mode = .zpx ∨ f.mode = .abs ∨ f.mode = .abx := by
  cases f
  case imp | zp0 | zpx | abs | abx => simp [Form.mode]
  all_goals exact absurd h Bool.false_ne_true

/-- `t` is `s` but for the location a ROL of form `f` turns, the flags and `PC`; the location is the same. -/
structure SameButLocation (f : Form) (s t : State) : Prop where
  acc : onAccumulator f t = onAccumulator f s
  addr : effectiveAddress f t = effectiveAddress f s
  x : t.x = s.x
  a : onAccumulator f s = false → t.a = s.a
  mem : ∀ b, onAccumulator f s = true ∨ b ≠ effectiveAddress f s → t.mem.read b = s.mem.read b

theorem SameButLocation.trans {f : Form} {s t u : State} (h : SameButLocation f s t) (h' : SameButLocation f t u) :
    SameButLocation f s u where
  acc := h'.acc.trans h.acc
  addr := h'.addr.trans h.addr
  x := h'.x.trans h.x
  a hs := (h'.a (h.acc.trans hs)).trans (h.a hs)
  mem b hb := (h'.mem b (by rwa [h.acc, h.addr])).trans (h.mem b hb)

/-- The byte in the location: the operand of the forms of ROL. -/
theorem operandOf_location {f : Form} (h : (Instr.rol f).wellFormed = true) (s : State) :
    operandOf f s = if onAccumulator f s then s.a else s.mem.read (effectiveAddress f s) := by
  have := rol_forms h
  cases f <;> simp [Form.mode] at this <;> rfl

/-- One ROL turns the pair of the location's byte and the carry, and nothing else. -/
theorem rol_location {f : Form} (h : (Instr.rol f).wellFormed = true) (s : State) :
    ∃ t, exec (.rol f) s = .next t ∧ SameButLocation f s t ∧
      operandOf f t = (rotateLeft (operandOf f s) (s.flag .c)).value ∧
      t.flag .c = (rotateLeft (operandOf f s) (s.flag .c)).out := by
  obtain ⟨t, he, r, hr, target, carry, -, -, frame⟩ := (rotateResults f s).1
  have hv : r = (rotateLeft (operandOf f s) (s.flag .c)).value :=
    BitVec.eq_of_toNat_eq (by rw [hr, rotateLeft_value, BitVec.toNat_ofNat])
  have hx : t.x = s.x := frame.regs_kept .x (by split <;> simp)
  have hacc : onAccumulator f t = onAccumulator f s := by
    by_cases hf : f = .imp <;> simp [onAccumulator, frame.acc_mode, Instr.form, hf]
  have haddr : effectiveAddress f t = effectiveAddress f s := by
    have ha := frame.addr_abs
    have := rol_forms h
    cases f <;> simp_all [Form.mode, effectiveAddress, Instr.form]
  refine ⟨t, he, ⟨hacc, haddr, hx, fun hs => ?_, fun b hb => ?_⟩, ?_,
    carry.trans (getLsbD_seven _).symm⟩
  · exact frame.regs_kept .a (by simp [hs])
  · refine frame.memory_kept b ?_
    by_cases hs : onAccumulator f s = true
    · rw [if_pos hs]; exact List.not_mem_nil
    · rw [if_neg hs, List.mem_singleton]; exact hb.resolve_left hs
  · rw [operandOf_location h, hacc, haddr, ← hv]
    cases hs : onAccumulator f s <;> simpa [hs] using target

/-- One turn of nine bits. -/
def rolTurn (v : Byte × Bool) : Byte × Bool := ((rotateLeft v.1 v.2).value, (rotateLeft v.1 v.2).out)

theorem rolTurn_nine : ∀ v : Byte × Bool, rolTurn^[9] v = v := by decide +kernel

/-- `n` ROLs turn the pair `n` times. -/
theorem execTimes_rol {f : Form} (h : (Instr.rol f).wellFormed = true) (n : Nat) (s : State) :
    ∃ t, execTimes n (.rol f) s = .next t ∧ SameButLocation f s t ∧
      (operandOf f t, t.flag .c) = rolTurn^[n] (operandOf f s, s.flag .c) := by
  induction n generalizing s with
  | zero => exact ⟨s, rfl, ⟨rfl, rfl, rfl, fun _ => rfl, fun _ _ => rfl⟩, rfl⟩
  | succ n ih =>
    obtain ⟨u, he, hsu, hv, hc⟩ := rol_location h s
    obtain ⟨t, ht, hut, hturn⟩ := ih u
    refine ⟨t, by rw [execTimes, he]; exact ht, hsu.trans hut, ?_⟩
    rw [hturn, hv, hc]; rfl

/-- Settles O41: the byte and the carry come round after nine turns (`rolTurn_nine`), and the rest is `SameButLocation`. -/
theorem nineRotationsRestore : Obligations.NineRotationsRestore := by
  intro f s h
  obtain ⟨t, ht, same, hturn⟩ := execTimes_rol h 9 s
  rw [rolTurn_nine] at hturn
  obtain ⟨hv, hc⟩ := Prod.mk.inj hturn
  rw [operandOf_location h, operandOf_location h, same.acc, same.addr] at hv
  refine ⟨t, ht, ?_, hc, fun b => ?_⟩
  · cases hs : onAccumulator f s
    · exact same.a hs
    · simpa [hs] using hv
  · by_cases hb : onAccumulator f s = true ∨ b ≠ effectiveAddress f s
    · exact same.mem b hb
    · simp only [not_or, Bool.not_eq_true, not_not] at hb
      obtain ⟨hs, rfl⟩ := hb
      simpa [hs] using hv

end Sys2Proof

/-! The branches (44_branches.md). -/

namespace Sys2Proof

open Machine

/-- A signed offset added to an address, modulo 65536. -/
theorem add_sext16_toNat (w : Addr) (o : Byte) : ((w + sext16 o).toNat : Int) = (w.toNat + o.toInt) % 65536 := by
  rw [BitVec.toNat_add, sext16_toNat, BitVec.toInt_eq_toNat_cond]
  have := o.isLt
  split <;> split <;> omega

/-- A branch on flag `g` with value `v`, taken and not taken. -/
theorem performBranch_result {i : Instr} {o : Byte} (hi : i.form = .rel o) (g : Flag) (v : Bool) (s : State) :
    ∃ t, performBranch i g v s = .next t ∧
      (s.flag g = v → t.pc = s.pc + 1 + sext16 o ∧
        Frame i [] [] [] (if t.pc.toNat / 256 = (s.pc + 1).toNat / 256 then 1 else 2) s t) ∧
      (s.flag g ≠ v → t.pc = s.pc + 1 ∧ Frame i [] [] [] 0 s t) := by
  have frame : ∀ (pc : Addr) (n : Nat),
      Frame i [] [] [] n s ({ resolve i.form s with pc := pc }.armCycles (cycleTotal i n s)) := fun pc n =>
    frame_of_body (fun r _ => by cases r <;> rfl) (fun _ _ => rfl) (fun _ _ => rfl) rfl rfl rfl rfl
  have next : (resolve i.form s).pc = s.pc + 1 := by rw [hi]; rfl
  have target : branchTarget (resolve i.form s) true = s.pc + 1 + sext16 o := by rw [hi]; rfl
  have penalty : branchPenalty (resolve i.form s) true =
      if (branchTarget (resolve i.form s) true).toNat / 256 = (s.pc + 1).toNat / 256 then 1 else 2 := by
    rw [branchPenalty_taken, branchTarget, if_pos rfl, next]
  refine ⟨_, rfl, fun taken => ?_, fun not_taken => ?_⟩
  · rw [flag_resolve, taken, beq_self_eq_true, penalty]
    exact ⟨target, frame _ _⟩
  · rw [flag_resolve, beq_eq_false_iff_ne.mpr not_taken, branchPenalty_not_taken]
    exact ⟨next, frame _ _⟩

/-- Settles O43: each of the eight is `performBranch` with its flag and value. -/
theorem branchResults : Obligations.BranchResults := by
  intro o s e he
  have branch : ∀ (i : Instr) (g : Flag) (v : Bool), i.form = .rel o → exec i s = performBranch i g v s →
      ∃ t, exec i s = .next t ∧
        (s.flag g = v → (t.pc.toNat : Int) = ((s.pc + 1).toNat + o.toInt) % 65536 ∧
          Frame i [] [] [] (if t.pc.toNat / 256 = (s.pc + 1).toNat / 256 then 1 else 2) s t) ∧
        (s.flag g ≠ v → t.pc = s.pc + 1 ∧ Frame i [] [] [] 0 s t) := by
    intro i g v hi hx
    obtain ⟨t, ht, taken, not_taken⟩ := performBranch_result hi g v s
    refine ⟨t, hx.trans ht, fun h => ?_, not_taken⟩
    obtain ⟨hpc, frame⟩ := taken h
    exact ⟨hpc ▸ add_sext16_toNat _ o, frame⟩
  simp only [List.mem_cons, List.not_mem_nil, or_false] at he
  obtain rfl | rfl | rfl | rfl | rfl | rfl | rfl | rfl := he <;> exact branch _ _ _ rfl rfl

/-! ## Pushes and pulls (45_stack_subroutine_interrupt.md) -/

/-- Settles O53. PLA after PHA pulls the byte PHA stored, since SP is back at the slot. -/
theorem accumulatorStackResults : Obligations.AccumulatorStackResults := by
  intro s
  have pulled : (s.mem.write (stackAddr s.sp) s.a).read (stackAddr (s.sp - 1 + 1)) = s.a := by
    rw [BitVec.sub_add_cancel, Memory.read_write_same]
  refine ⟨⟨_, rfl, Memory.read_write_same _ _ _, rfl, BitVec.add_zero s.pc, frame_of_exec rfl rfl, fun v => ?_⟩,
    ⟨_, rfl, rfl, znOf_setZN _ _, rfl, BitVec.add_zero s.pc, frame_of_exec rfl rfl⟩⟩
  refine ⟨_, rfl, pulled, BitVec.sub_add_cancel s.sp 1, ?_⟩
  exact (congrArg (ZNOf · _) pulled).mp (znOf_setZN _ _)

/-- The status byte PHP pushes. -/
theorem readFlag_php (p : Byte) (g : Flag) :
    readFlag (p ||| Flag.b.mask ||| Flag.u.mask) g = (readFlag p g || decide (g ∈ [Flag.b, .u])) := by
  rw [readFlag_or, readFlag_or, readFlag_mask, readFlag_mask, Bool.or_assoc]
  cases g <;> rfl

/-- Settles O54: PHP's pushed byte is `readFlag_php`; PLP's flags are those of the pulled byte with U forced. -/
theorem statusStackResults : Obligations.StatusStackResults := by
  intro s
  refine ⟨⟨_, rfl, fun g => ?_, ?_, ?_, rfl, BitVec.add_zero s.pc, frame_of_exec rfl rfl⟩,
    ⟨_, rfl, fun g hg => readFlag_writeFlag_other _ _ hg, readFlag_writeFlag_same _ _ _, rfl, BitVec.add_zero s.pc,
      frame_of_exec rfl rfl⟩⟩
  · exact (congrArg (readFlag · g) (Memory.read_write_same _ _ _)).trans (readFlag_php s.p g)
  · simp [flag_setFlag]
  · simp [flag_setFlag]

/-- What the three topmost slots of the stack read after three pushes. -/
theorem read_pushed (m : Memory) (sp v1 v2 v3 : Byte) :
    let pushed := writeAll m [(stackAddr sp, v1), (stackAddr (sp - 1), v2), (stackAddr (sp - 2), v3)]
    pushed.read (stackAddr sp) = v1 ∧ pushed.read (stackAddr (sp - 1)) = v2 ∧ pushed.read (stackAddr (sp - 2)) = v3 := by
  have h1 := stackAddr_ne_sub1 sp
  have h2 := stackAddr_ne_sub2 sp
  have h12 := stackAddr_sub1_ne_sub2 sp
  simp [writeAll, Memory.read_write, h1, h2, h12]

/-- RTS pulls `PC` low byte first and goes on behind it. -/
theorem exec_rts (s : State) : ∃ t, exec .rts s = .next t ∧
    t.pc = word (s.mem.read (stackAddr (s.sp + 2))) (s.mem.read (stackAddr (s.sp + 1))) + 1 ∧ t.sp = s.sp + 2 ∧
    Frame .rts [.sp] [] [] 0 s t := by
  refine ⟨_, rfl, ?_, byte_add_one_one s.sp, frame_of_exec rfl rfl⟩
  rw [← show s.sp + 1 + 1 = s.sp + 2 from byte_add_one_one s.sp]
  rfl

/-- Settles O55. JSR's two pushes are its `storedBytes`; RTS then pulls them from the slots SP has passed. -/
theorem subroutineResults : Obligations.SubroutineResults := by
  intro a s
  refine ⟨?_, exec_rts s⟩
  obtain ⟨t, he, hmem⟩ := exec_mem (.jsr a) s
  have hpc : t.pc = a := by cases he; rfl
  have hsp : t.sp = s.sp - 2 := by cases he; exact byte_sub_one_one s.sp
  have hcycles : t.cycles = cycleTotal (.jsr a) 0 s := by cases he; rfl
  have high : t.mem.read (stackAddr s.sp) = hi8 (s.pc + 1) := by
    rw [hmem]
    exact (Memory.read_write_other _ _ (stackAddr_ne_sub1 s.sp)).trans (Memory.read_write_same _ _ _)
  have low : t.mem.read (stackAddr (s.sp - 1)) = lo8 (s.pc + 1) := by
    rw [hmem]; exact Memory.read_write_same _ _ _
  refine ⟨t, he, hpc, hsp, high, low, frame_of_exec he hcycles, fun q => ?_⟩
  obtain ⟨u, hu, upc, usp, -⟩ := exec_rts { t with pc := q }
  refine ⟨u, hu, ?_, ?_⟩
  · rw [upc, hsp, show s.sp - 2 + 2 = s.sp by bv_omega, show s.sp - 2 + 1 = s.sp - 1 by bv_omega, high, low,
      word_hi8_lo8, BitVec.add_assoc]
    rfl
  · rw [usp, hsp, BitVec.sub_add_cancel]

/-- The status byte BRK pushes. -/
theorem readFlag_brk (p : Byte) (g : Flag) :
    readFlag (writeFlag (writeFlag p .i true) .b true) g = (readFlag p g || decide (g ∈ [Flag.b, .i])) := by
  rw [readFlag_writeFlag, readFlag_writeFlag]
  cases g <;> simp

theorem exec_brk (s : State) : exec .brk s = .next ((resolve .imp s).takeTrap.armCycles (cycleTotal .brk 0 s)) := rfl

theorem exec_rti (s : State) :
    exec .rti s = .next ((resolve .imp s).returnFromTrap.armCycles (cycleTotal .rti 0 s)) := rfl

/-- Settles O56: the three pushes are BRK's `storedBytes`, the rest is what `takeTrap` does. -/
theorem brkResult : Obligations.BrkResult := by
  intro s
  have hmem := of_exec (exec_brk s) (exec_mem .brk s)
  obtain ⟨high, low, status⟩ := read_pushed s.mem s.sp (hi8 (s.pc + 1)) (lo8 (s.pc + 1))
    (writeFlag (writeFlag s.p .i true) .b true)
  refine ⟨_, exec_brk s, ?_, ?_, fun g => ?_, ?_, ?_, ?_, ?_, frame_of_exec (exec_brk s) rfl⟩
  · rw [hmem]; exact high
  · rw [hmem]; exact low
  · rw [hmem]; exact (congrArg (readFlag · g) status).trans (readFlag_brk s.p g)
  · simp [byte_sub_one_one, byte_sub_two_one]
  · simp [takeTrap_flag]
  · simp [takeTrap_flag]
  · rw [armCycles_pc, takeTrap_pc, readWord_toNat]; rfl

/-- Settles O58, by what `returnFromTrap` does. -/
theorem rtiResult : Obligations.RtiResult := by
  intro s
  refine ⟨_, exec_rti s, returnFromTrap_flag (resolve .imp s), ?_, ?_, frame_of_exec (exec_rti s) rfl⟩
  · simp [returnFromTrap_pc, byte_add_one_one, byte_add_two_one]
  · simp [byte_add_one_one, byte_add_two_one]

/-- Settles O59: after `brkResult`, `rtiResult` pulls the three bytes BRK pushed. -/
theorem trapAndReturn : Obligations.TrapAndReturn := by
  intro s q p
  obtain ⟨t, he, high, low, status, hsp, -, -, -, frame⟩ := brkResult s
  obtain ⟨u, hu, flags, upc, usp, uframe⟩ := rtiResult { t with pc := q, p := p }
  have reg_kept : ∀ r, r ≠ .sp → u.reg r = s.reg r := fun r hr =>
    (uframe.regs_kept r (by simpa using hr)).trans ((by cases r <;> rfl : _ = t.reg r).trans
      (frame.regs_kept r (by simpa using hr)))
  have flag : ∀ g, u.flag g = ((s.flag g || decide (g ∈ [Flag.b, .i])) && decide (g ∉ [Flag.b, .u])) := fun g => by
    rw [flags, ← status g, hsp, show s.sp - 3 + 1 = s.sp - 2 by bv_omega]
  refine ⟨t, u, he, hu, ?_, ?_, ?_, ?_, fun g hg => ?_, reg_kept .a (by decide), reg_kept .x (by decide),
    reg_kept .y (by decide)⟩
  · rw [upc, hsp, show s.sp - 3 + 3 = s.sp by bv_omega, show s.sp - 3 + 2 = s.sp - 1 by bv_omega, high, low, word_hi8_lo8]
  · rw [usp, hsp, BitVec.sub_add_cancel]
  · simp [flag]
  · simp [flag]
  · rw [flag]
    cases g <;> simp at hg ⊢

/-- The byte 0x00 fetches BRK. -/
theorem fetchInstr_brk {s : State} (h : s.mem.read s.pc = 0x00#8) : s.fetchInstr = .brk := by
  rw [fetchInstr_eq, h]; rfl

/-- Settles O57: `brkResult` from the state with the opcode fetched, then U set and one count. -/
theorem trapEntryStep : Obligations.TrapEntryStep := by
  intro s idle hop
  obtain ⟨t, he, high, low, status, hsp, hI, hB, hpc, frame⟩ := brkResult s.beginInstr
  have next : s.beginInstr.pc + 1 = s.pc + 2 := BitVec.add_assoc s.pc 1 1
  have flag_u : ∀ g, s.beginInstr.flag g = (s.flag g || decide (g = .u)) := fun g => by
    rw [State.flag, beginInstr_p, readFlag_writeFlag]
    by_cases h : g = .u <;> simp [h]
  rw [next] at high low
  refine ⟨_, step_working idle (by rw [fetchInstr_brk hop]; exact he), high, low, fun g => ?_, hsp, fun g => ?_, ?_,
    frame.regs_kept .a (by decide), frame.regs_kept .x (by decide), frame.regs_kept .y (by decide), ?_⟩
  · rw [← beginInstr_sp, countDown_mem, endInstr_mem, status g, flag_u]
    cases g <;> simp
  · rw [flag_countDown, flag_endInstr]
    by_cases hg : g ∈ [Flag.i, .b]
    · simp only [List.mem_cons, List.not_mem_nil, or_false] at hg
      obtain rfl | rfl := hg <;> simp [hI, hB]
    · have kept := frame.flags_kept g hg
      simp only [List.mem_cons, List.not_mem_nil, or_false, not_or] at hg
      by_cases hu : g = .u <;> simp [kept, flag_u, hg, hu]
  · exact BitVec.eq_of_toNat_eq (hpc.trans (word_toNat _ _).symm)
  · rw [countDown_cycles, endInstr_cycles, frame.cycles_armed]; rfl

end Sys2Proof

/-! A working step: where it sends `PC` (10_state.md R15), what it adds to the base count (50_sequencer.md R222, R223), what it
does on the bus (20_memory.md R54). -/

namespace Sys2Proof

open Machine

/-- The branch penalty of the instruction at opcode address `s.pc` (44_branches.md R130), by where it sends `PC`. -/
def penaltyOf (i : Instr) (s : State) : Nat :=
  if i.form.mode = .rel then
    ((redirect i s).map fun a => if a.toNat / 256 = (s.pc + 2).toNat / 256 then 1 else 2).getD 0
  else 0

/-- What a working step makes of `PC` and of the counter. -/
structure Redirects (i : Instr) (s t : State) : Prop where
  pc : t.pc = (redirect i s).getD (s.pc + BitVec.ofNat 16 i.length)
  cycles : t.cycles = cycleTotal i (penaltyOf i s) s.beginInstr

theorem beginInstr_pc_add (s : State) (n : Nat) : s.beginInstr.pc + BitVec.ofNat 16 n = s.pc + BitVec.ofNat 16 (1 + n) := by
  rw [beginInstr_pc, BitVec.add_assoc, BitVec.ofNat_add]; rfl

theorem penaltyOf_of_redirect_none {i : Instr} {s : State} (h : redirect i s = none) : penaltyOf i s = 0 := by
  rw [penaltyOf, h]; exact ite_self 0

/-- The opcode fetch forces the Unused flag and no other. -/
theorem flag_beginInstr_other (s : State) {g : Flag} (h : g ≠ .u) : s.beginInstr.flag g = s.flag g :=
  readFlag_writeFlag_other s.p true h

/-- A branch taken goes to the offset from the next instruction, and one not taken to the next instruction. -/
theorem redirects_branch {i : Instr} {o : Byte} (hi : i.form = .rel o) {g : Flag} (hg : g ≠ .u) (v : Bool) (s : State)
    (hr : redirect i s = if s.flag g = v then some (s.pc + 2 + sext16 o) else none) :
    ∃ t, performBranch i g v s.beginInstr = .next t ∧ Redirects i s t := by
  obtain ⟨t, he, taken, not_taken⟩ := performBranch_result hi g v s.beginInstr
  have next : s.beginInstr.pc + 1 = s.pc + 2 := beginInstr_pc_add s 1
  rw [flag_beginInstr_other s hg, next] at taken not_taken
  refine ⟨t, he, ?_⟩
  by_cases hv : s.flag g = v
  · obtain ⟨hpc, frame⟩ := taken hv
    rw [if_pos hv] at hr
    have penalty : penaltyOf i s = if t.pc.toNat / 256 = (s.pc + 2).toNat / 256 then 1 else 2 := by
      rw [penaltyOf, if_pos (show i.form.mode = .rel by rw [hi]; rfl), hr, hpc]; rfl
    exact ⟨by rw [hr, hpc]; rfl, by rw [penalty]; exact frame.cycles_armed⟩
  · obtain ⟨hpc, frame⟩ := not_taken hv
    rw [if_neg hv] at hr
    refine ⟨by rw [hr, hpc, Instr.length, hi]; rfl, ?_⟩
    rw [frame.cycles_armed, penaltyOf_of_redirect_none hr]

/-- Where every instruction of the opcode table sends `PC`, and the total it arms. -/
theorem exec_redirects {i : Instr} (hw : i.wellFormed = true) (s : State) :
    ∃ t, exec i s.beginInstr = .next t ∧ Redirects i s t := by
  have past (j : Instr) : nextPc j s.beginInstr = s.pc + BitVec.ofNat 16 j.length := beginInstr_pc_add s _
  have straight : ∀ {j : Instr} {t : State}, redirect j s = none → t.pc = nextPc j s.beginInstr →
      t.cycles = cycleTotal j 0 s.beginInstr → Redirects j s t := fun {j t} hr hpc hc =>
    ⟨by rw [hr, hpc, past]; rfl, by rw [hc, penaltyOf_of_redirect_none hr]⟩
  cases i
  case bcc o => exact redirects_branch (i := .bcc o) rfl (by decide) false s rfl
  case bcs o => exact redirects_branch (i := .bcs o) rfl (by decide) true s rfl
  case beq o => exact redirects_branch (i := .beq o) rfl (by decide) true s rfl
  case bne o => exact redirects_branch (i := .bne o) rfl (by decide) false s rfl
  case bmi o => exact redirects_branch (i := .bmi o) rfl (by decide) true s rfl
  case bpl o => exact redirects_branch (i := .bpl o) rfl (by decide) false s rfl
  case bvc o => exact redirects_branch (i := .bvc o) rfl (by decide) false s rfl
  case bvs o => exact redirects_branch (i := .bvs o) rfl (by decide) true s rfl
  case jmp f =>
    cases f
    case abs w | ind w => exact ⟨_, rfl, rfl, rfl⟩
    all_goals exact absurd hw Bool.false_ne_true
  case jsr a => exact ⟨_, rfl, rfl, rfl⟩
  case rts =>
    obtain ⟨t, he, hpc, -, frame⟩ := exec_rts s.beginInstr
    exact ⟨t, he, hpc, frame.cycles_armed⟩
  case rti =>
    obtain ⟨t, he, -, hpc, -, frame⟩ := rtiResult s.beginInstr
    exact ⟨t, he, hpc, frame.cycles_armed⟩
  case brk =>
    obtain ⟨t, he, -, -, -, -, -, -, hpc, frame⟩ := brkResult s.beginInstr
    exact ⟨t, he, BitVec.eq_of_toNat_eq (hpc.trans (word_toNat _ _).symm), frame.cycles_armed⟩
  case asl | lsr | rol | ror => exact ⟨_, rfl, straight rfl (afterShift_pc _ _ _) rfl⟩
  all_goals exact ⟨_, rfl, straight rfl rfl rfl⟩

theorem exec_fetchInstr_redirects {s t : State} (he : exec s.fetchInstr s.beginInstr = .next t) :
    Redirects s.fetchInstr s t := of_exec he (exec_redirects (wellFormed_fetchInstr s) s)

/-- Settles O29: the resolver is its definition, the step is `exec_redirects`. -/
theorem programCounterAdvance : Obligations.ProgramCounterAdvance := by
  refine ⟨fun f s => ⟨?_, rfl⟩, fun s idle => ?_⟩
  · rw [resolve_pc, BitVec.toNat_add, BitVec.toNat_ofNat, Form.bytes_length, Nat.add_mod_mod]
  · obtain ⟨t, he, -⟩ := exec_fetchInstr s
    exact ⟨_, step_working idle he, (exec_fetchInstr_redirects he).pc⟩

/-! ## What the next fetch sees (70_reset_and_hazards.md) -/

/-- From Idle to the next Idle: the memory with the stored bytes, and `PC` where the instruction sends it. -/
theorem run_instrTotal {s : State} (idle : s.cycles = 0) :
    ∃ t : State, core.run (instrTotal s) s = .next t ∧ t.cycles = 0 ∧
      t.mem = writeAll s.mem (storedBytes s.fetchInstr s.beginInstr) ∧
      t.pc = (redirect s.fetchInstr s).getD (s.pc + BitVec.ofNat 16 s.fetchInstr.length) := by
  obtain ⟨t, he, two_le⟩ := exec_fetchInstr s
  rw [instrTotal_of_exec he]
  exact ⟨_, run_working idle he (by omega), rfl, of_exec he (exec_mem _ _), (exec_fetchInstr_redirects he).pc⟩

/-- A byte written near an address, read near it. -/
theorem read_write_offset (m : Memory) (a : Addr) (v : Byte) {j k : Nat} (hj : j < 3) (hk : k < 3) :
    (m.write (a + BitVec.ofNat 16 k) v).read (a + BitVec.ofNat 16 j) =
      if k = j then v else m.read (a + BitVec.ofNat 16 j) := by
  have same : a + BitVec.ofNat 16 j = a + BitVec.ofNat 16 k ↔ k = j := by
    rw [BitVec.add_right_inj, ← BitVec.toNat_inj, BitVec.toNat_ofNat, BitVec.toNat_ofNat]; omega
  simp only [Memory.read_write, same]

/-- Settles O14: `run_instrTotal`; a store aimed at byte `k` of the next instruction is then read back by `read_write_offset`. -/
theorem storeSeenByNextFetch : Obligations.StoreSeenByNextFetch := by
  constructor
  · intro s idle
    obtain ⟨t, hrun, hc, hmem, hpc⟩ := run_instrTotal idle
    exact ⟨t, hrun, hc, hmem, hpc, fetchInstr_eq t⟩
  · intro s f k idle hk e he hi haddr
    obtain ⟨t, hrun, hc, hmem, hpc⟩ := run_instrTotal idle
    have stored : storedBytes e.1 s.beginInstr = [(effectiveAddress f s.beginInstr, s.reg e.2)] ∧ redirect e.1 s = none := by
      simp only [List.mem_cons, List.not_mem_nil, or_false] at he
      obtain rfl | rfl | rfl := he <;> exact ⟨rfl, rfl⟩
    rw [hi, stored.2] at hpc
    rw [hi, stored.1, haddr, BitVec.ofNat_add, ← BitVec.add_assoc, ← show t.pc = s.pc + BitVec.ofNat 16 e.1.length from hpc]
      at hmem
    have seen : ∀ j < 3, t.mem.read (t.pc + BitVec.ofNat 16 j) =
        if k = j then s.reg e.2 else s.mem.read (t.pc + BitVec.ofNat 16 j) := fun j hj => by
      rw [hmem]; exact read_write_offset s.mem t.pc (s.reg e.2) hj hk
    have seen0 := seen 0 (by omega)
    rw [BitVec.add_zero] at seen0
    refine ⟨t, hrun, hc, hpc, (fetchInstr_eq t).trans ?_⟩
    rw [seen0, show t.mem.read (t.pc + 1) = _ from seen 1 (by omega),
      show t.mem.read (t.pc + 2) = _ from seen 2 (by omega)]
    rfl

/-! ## The cycle total -/

/-- Whether the page-cross cycle can be taken goes by the row and the opcode byte, not by the operand bytes. -/
theorem instrExtra_instrOf (m : Mnemonic) (k : Mode) (op b1 b2 : Byte) :
    instrExtra (instrOf m k op b1 b2) = instrExtra (instrOf m k op 0 0) := by
  cases m
  case nop => by_cases h : op = 0xEA#8 <;> simp [instrOf, h, instrExtra]
  all_goals rfl

theorem instrExtra_decodeBytes (op b1 b2 : Byte) : instrExtra (decodeBytes op b1 b2) = instrExtra (decodeBytes op 0 0) :=
  instrExtra_instrOf _ _ op b1 b2

/-- The instructions that can take the page-cross cycle (92_eei_decisions.md D8). -/
theorem instrExtra_iff (op b1 b2 : Byte) : instrExtra (decodeBytes op b1 b2) = true ↔
    (decodeBytes op b1 b2).mnemonic ∈ [.adc, .and, .cmp, .eor, .lda, .ldx, .ldy, .ora, .sbc] ∨
      op ∈ [0x1C#8, 0x3C#8, 0x5C#8, 0x7C#8, 0xDC#8, 0xFC#8] := by
  have rows : ∀ op : Byte, instrExtra (decodeBytes op 0 0) = true ↔
      (opcodeRow op).mnemonic ∈ [.adc, .and, .cmp, .eor, .lda, .ldx, .ldy, .ora, .sbc] ∨
        op ∈ [0x1C#8, 0x3C#8, 0x5C#8, 0x7C#8, 0xDC#8, 0xFC#8] := by decide +kernel
  rw [instrExtra_decodeBytes, rows, mnemonic_decodeBytes]

/-- The largest total a row allows. -/
theorem row_bound : ∀ op : Byte,
    (opcodeRow op).base + (if (opcodeRow op).mode = .rel then 2 else 0) + (instrExtra (decodeBytes op 0 0)).toNat ≤
      if (opcodeRow op).mnemonic = .xxx then 8 else 7 := by decide +kernel

theorem penaltyOf_le (i : Instr) (s : State) : penaltyOf i s ≤ if i.form.mode = .rel then 2 else 0 := by
  unfold penaltyOf
  split
  · cases redirect i s with
    | none => exact Nat.zero_le 2
    | some a =>
      simp only [Option.map_some, Option.getD_some]
      split <;> decide
  · exact Nat.le_refl 0

/-- The total of the fetched instruction, at most 7 but for an XXX slot. -/
theorem cycleTotal_fetchInstr_le (s : State) :
    cycleTotal s.fetchInstr (penaltyOf s.fetchInstr s) s.beginInstr ≤ if s.fetchInstr.mnemonic = .xxx then 8 else 7 := by
  have bound := row_bound (s.mem.read s.pc)
  have penalty := penaltyOf_le s.fetchInstr s
  have extra : (modeExtra s.fetchInstr.form s.beginInstr && instrExtra s.fetchInstr).toNat ≤
      (instrExtra s.fetchInstr).toNat := by
    cases modeExtra s.fetchInstr.form s.beginInstr <;> simp
  rw [cycleTotal]
  generalize penaltyOf s.fetchInstr s = n at *
  rw [← instrExtra_decodeBytes _ (s.mem.read (s.pc + 1)) (s.mem.read (s.pc + 2)),
    ← baseCycles_decodeBytes _ (s.mem.read (s.pc + 1)) (s.mem.read (s.pc + 2)),
    ← mode_decodeBytes _ (s.mem.read (s.pc + 1)) (s.mem.read (s.pc + 2)),
    ← mnemonic_decodeBytes _ (s.mem.read (s.pc + 1)) (s.mem.read (s.pc + 2)), ← fetchInstr_eq] at bound
  omega

/-- Settles O11: the total is what the fetched instruction arms (`exec_redirects`), its bounds are `cycleTotal_fetchInstr_le`
and `two_le_cycleTotal_fetchInstr`. -/
theorem cycleTotalBounds : Obligations.CycleTotalBounds := by
  intro s idle
  obtain ⟨t, he, two_le⟩ := exec_fetchInstr s
  have total : t.cycles = cycleTotal s.fetchInstr (penaltyOf s.fetchInstr s) s.beginInstr :=
    (exec_fetchInstr_redirects he).cycles
  have bound := cycleTotal_fetchInstr_le s
  have extra : (modeExtra s.fetchInstr.form s.beginInstr && instrExtra s.fetchInstr).toNat =
      if modeExtra s.fetchInstr.form s.beginInstr = true ∧
        (s.fetchInstr.mnemonic ∈ [.adc, .and, .cmp, .eor, .lda, .ldx, .ldy, .ora, .sbc] ∨
          s.mem.read s.pc ∈ [0x1C#8, 0x3C#8, 0x5C#8, 0x7C#8, 0xDC#8, 0xFC#8]) then 1 else 0 :=
    (Bool.cond_eq_ite _ 1 0).trans (if_congr (by rw [fetchInstr_eq, Bool.and_eq_true, instrExtra_iff]) rfl rfl)
  have le8 : t.cycles ≤ 8 := by rw [total]; split at bound <;> omega
  rw [instrTotal_of_exec he]
  refine ⟨?_, two_le, le8, fun hx => by rw [total]; simpa [hx] using bound, _, step_working idle he, ?_, ?_⟩
  · rw [total, cycleTotal, extra, ← baseCycles_decodeBytes _ (s.mem.read (s.pc + 1)) (s.mem.read (s.pc + 2)), ← fetchInstr_eq]
    rfl
  · simp; omega
  · simp; omega

end Sys2Proof

/-! The invariant of a step boundary (50_sequencer.md R228): every step keeps it, so every run does. -/

namespace Sys2Proof

open Machine

/-- A sign-extended byte. -/
theorem sext16_range (o : Byte) : (sext16 o).toNat ≤ 0x007F ∨ 0xFF80 ≤ (sext16 o).toNat := by
  have := o.isLt
  rw [sext16_toNat]
  split <;> omega

/-- A resolver leaves `addr_rel` alone or makes it a sign-extended byte. -/
theorem relativeOffset_range (f : Form) {s : State} (h : s.addrRel.toNat ≤ 0x007F ∨ 0xFF80 ≤ s.addrRel.toNat) :
    (relativeOffset f s).toNat ≤ 0x007F ∨ 0xFF80 ≤ (relativeOffset f s).toNat := by
  cases f
  case rel o => exact sext16_range o
  all_goals exact h

/-- Settles O9. A counting step touches the counter alone; a working step ends with U forced, the counter one below a total of
at most 8 (`cycleTotal_fetchInstr_le`), and `addr_rel` and memory as `exec_cases` says. -/
theorem stepKeepsInvariant : Obligations.StepKeepsInvariant := by
  rintro s t ⟨hu, hc, hrel, hwf⟩ hstep
  obtain idle | counting := Nat.eq_zero_or_pos s.cycles
  · obtain ⟨b, n, he, ⟨-, -, brel, -, bwf⟩, -⟩ := exec_cases s.fetchInstr s.beginInstr
    rw [step_working idle he] at hstep
    injection hstep with ht
    subst ht
    have total := (exec_fetchInstr_redirects he).cycles
    have bound := cycleTotal_fetchInstr_le s
    refine ⟨by simp [flag_endInstr], ?_, ?_, bwf hwf⟩
    · rw [countDown_cycles, endInstr_cycles, total]
      split at bound <;> omega
    · rw [countDown_addrRel, endInstr_addrRel, armCycles_addrRel, brel]
      exact relativeOffset_range _ hrel
  · rw [step_counting counting] at hstep
    injection hstep with ht
    subst ht
    exact ⟨hu, (Nat.sub_le _ _).trans hc, hrel, hwf⟩

/-- Settles O10, by cases on the action. -/
theorem hostActionsKeepInvariant : Obligations.HostActionsKeepInvariant := by
  refine ⟨fun s t x hinv hact => ?_, fun s => inv_activateReset⟩
  have ⟨hu, hc, hrel, hwf⟩ := hinv
  cases x with
  | clock => exact stepKeepsInvariant s t hinv hact
  | reset =>
    injection hact with ht
    exact ht ▸ inv_activateReset hwf
  | write addr value =>
    injection hact with ht
    exact ht ▸ ⟨hu, hc, hrel, Memory.wf_write hwf addr value⟩
  | read addr =>
    injection hact with ht
    exact ht ▸ hinv

/-- Settles O34, by induction on the length of the run. -/
theorem everyRunIsSafe : Obligations.EveryRunIsSafe := by
  intro k
  induction k with
  | zero => exact fun s h => ⟨s, rfl, h⟩
  | succ k ih =>
    intro s h
    obtain ⟨t, ht⟩ := step_next s
    obtain ⟨u, hu, hinv⟩ := ih t (stepKeepsInvariant s t h ht)
    exact ⟨u, by rw [run_succ k ht, hu], hinv⟩

/-! ## The operand and the write-back (40_addressing_modes.md R94, R95) -/

/-- The operand of a fetched form: an immediate byte is the byte at the resolved address. -/
theorem operandByte_formOf (k : Mode) {s t : State} (b2 : Byte)
    (ht : t = resolve (formOf k (s.mem.read (s.pc + 1)) b2) s.beginInstr) :
    operandByte (formOf k (s.mem.read (s.pc + 1)) b2) t = if t.accMode then t.a else t.mem.read t.addrAbs := by
  cases k
  case imm => subst ht; rfl
  all_goals rfl

/-- Settles O30. The form of the fetched instruction holds the bytes after the opcode (`form_fetchInstr`), and `acc_mode`, which
the fetch cleared, is set by IMP alone. -/
theorem operandAndWriteBackContracts : Obligations.OperandAndWriteBackContracts := by
  refine ⟨fun s t ht => ⟨?_, ?_⟩, fun t => rfl, by decide, fun t v => ⟨rfl, rfl⟩⟩
  · rw [form_fetchInstr] at ht ⊢
    exact operandByte_formOf _ _ ht
  · rw [ht, resolve_accMode, beginInstr_accMode, Bool.false_or]
    exact decide_eq_decide.mpr (Form.mode_eq_imp _)

/-! ## The bus trace (20_memory.md R54) -/

@[simp] theorem replay_nil (m : Memory) : replay m [] = some m := rfl

/-- A read that carries the byte memory holds goes through. -/
@[simp] theorem replay_read (m : Memory) (a : Addr) (rest : List BusAccess) :
    replay m (.read a (m.read a) :: rest) = replay m rest := if_pos rfl

@[simp] theorem replay_write (m : Memory) (a : Addr) (v : Byte) (rest : List BusAccess) :
    replay m (.write a v :: rest) = replay (m.write a v) rest := rfl

theorem replay_append {m n : Memory} {xs : List BusAccess} (h : replay m xs = some n) (ys : List BusAccess) :
    replay m (xs ++ ys) = replay n ys := by
  induction xs generalizing m with
  | nil => injection h with h; rw [h, List.nil_append]
  | cons x xs ih =>
    cases x with
    | read a v =>
      rw [replay] at h
      split at h
      · next hv => rw [List.cons_append, replay, if_pos hv, ih h]
      · cases h
    | write a v => exact ih h

/-- Resolvers only read. -/
theorem replay_resolverAccesses (f : Form) (s : State) : replay s.mem (resolverAccesses f s) = some s.mem := by
  cases f <;> simp [resolverAccesses, busRead]

theorem replay_operandAccesses (t : State) : replay t.mem (operandAccesses t) = some t.mem := by
  unfold operandAccesses
  split <;> simp [busRead]

/-- A shift reads its operand and writes its result back. -/
theorem replay_shift (i : Instr) (r : Shifted) (s : State) :
    replay s.mem (operandAccesses (resolve i.form s) ++ writeBackAccesses (resolve i.form s) r.value) =
      some (afterShift i r s).mem := by
  refine (replay_append (replay_operandAccesses (resolve i.form s)) _).trans ?_
  rw [afterShift, armCycles_mem, writeBack_mem, setShiftFlags_accMode, writeBackAccesses]
  split <;> rfl

/-- BRK's pushes make the memory in which it then reads the vector. -/
theorem replay_takeTrap (t : State) : replay t.mem (semanticAccesses .brk t) = some t.takeTrap.mem := by
  simp only [semanticAccesses, replay_write, ← takeTrap_mem, busRead, replay_read, replay_nil]

/-- The trace of an instruction's semantics does to memory what the instruction does. -/
theorem replay_semanticAccesses (i : Instr) (s : State) :
    ∃ t, exec i s = .next t ∧ replay s.mem (semanticAccesses i (resolve i.form s)) = some t.mem := by
  have operand (f : Form) := replay_operandAccesses (resolve f s)
  cases i
  case adc f | sbc f | cmp f | cpx f | cpy f | lda f | ldx f | ldy f | and f | ora f | eor f | bit f =>
    exact ⟨_, rfl, operand f⟩
  case asl f => exact ⟨_, exec_asl f s, replay_shift (.asl f) _ s⟩
  case lsr f => exact ⟨_, exec_lsr f s, replay_shift (.lsr f) _ s⟩
  case rol f => exact ⟨_, exec_rol f s, replay_shift (.rol f) _ s⟩
  case ror f => exact ⟨_, exec_ror f s, replay_shift (.ror f) _ s⟩
  case inc f | dec f => exact ⟨_, rfl, replay_append (operand f) _⟩
  case pla | plp | rts | rti => exact ⟨_, rfl, by simp [semanticAccesses, busRead]⟩
  case brk => exact ⟨_, exec_brk s, replay_takeTrap (resolve .imp s)⟩
  all_goals exact ⟨_, rfl, rfl⟩

/-- Settles O13: the opcode and the resolver only read, and the semantics is `replay_semanticAccesses`. -/
theorem busTraceReplaysStep : Obligations.BusTraceReplaysStep := by
  intro s
  obtain idle | counting := Nat.eq_zero_or_pos s.cycles
  · obtain ⟨t, he, semantics⟩ := replay_semanticAccesses s.fetchInstr s.beginInstr
    refine ⟨_, step_working idle he, ?_⟩
    rw [busTrace, if_pos idle, busRead, replay_read]
    exact (replay_append (replay_resolverAccesses _ s.beginInstr) _).trans semantics
  · exact ⟨_, step_counting counting, by rw [busTrace_counting counting]; rfl⟩

end Sys2Proof

/-! What an instruction of the opcode table does not read (10_state.md R22, R36): the stored Break flag, and what its resolver
does not write of the transient decode state. Both follow from one relation, kept by every operation of the meanings. -/

namespace Sys2Proof

open Machine

/-- Equal in what an instruction reads, the flags of `F` left out: everything but `addr_abs`, `addr_rel` and `opcode`. -/
structure Agree (F : List Flag) (s t : State) : Prop where
  a : s.a = t.a
  x : s.x = t.x
  y : s.y = t.y
  sp : s.sp = t.sp
  pc : s.pc = t.pc
  flags : ∀ g, g ∉ F → s.flag g = t.flag g
  accMode : s.accMode = t.accMode
  cycles : s.cycles = t.cycles
  mem : s.mem = t.mem

/-! ## Operations on agreeing states, with equal values -/

namespace Agree

section
variable {F : List Flag} {s t : State} (h : Agree F s t)
include h

theorem setFlag (f : Flag) {v w : Bool} (hv : v = w) : Agree F (s.setFlag f v) (t.setFlag f w) :=
  { h with flags := fun g hg => by rw [flag_setFlag, flag_setFlag, hv, h.flags g hg] }

theorem setZN {v w : Byte} (hv : v = w) : Agree F (s.setZN v) (t.setZN w) :=
  (h.setFlag .z (by rw [hv])).setFlag .n (by rw [hv])

theorem setSumFlags {r q : Sum} (hr : r = q) : Agree F (s.setSumFlags r) (t.setSumFlags q) :=
  ((h.setFlag .c (by rw [hr])).setFlag .v (by rw [hr])).setZN (by rw [hr])

theorem setCompareFlags {r m r' m' : Byte} (hr : r = r') (hm : m = m') :
    Agree F (s.setCompareFlags r m) (t.setCompareFlags r' m') :=
  (h.setFlag .c (by rw [hr, hm])).setZN (by rw [hr, hm])

theorem setShiftFlags {r q : Shifted} (hr : r = q) : Agree F (s.setShiftFlags r) (t.setShiftFlags q) :=
  (h.setFlag .c (by rw [hr])).setZN (by rw [hr])

theorem setBitFlags {a m a' m' : Byte} (ha : a = a') (hm : m = m') : Agree F (s.setBitFlags a m) (t.setBitFlags a' m') :=
  ((h.setFlag .z (by rw [ha, hm])).setFlag .n (by rw [hm])).setFlag .v (by rw [hm])

theorem withA {v w : Byte} (hv : v = w) : Agree F { s with a := v } { t with a := w } := { h with a := hv }
theorem withX {v w : Byte} (hv : v = w) : Agree F { s with x := v } { t with x := w } := { h with x := hv }
theorem withY {v w : Byte} (hv : v = w) : Agree F { s with y := v } { t with y := w } := { h with y := hv }
theorem withSp {v w : Byte} (hv : v = w) : Agree F { s with sp := v } { t with sp := w } := { h with sp := hv }
theorem withPc {v w : Addr} (hv : v = w) : Agree F { s with pc := v } { t with pc := w } := { h with pc := hv }
theorem withP {v w : Byte} (hv : v = w) : Agree F { s with p := v } { t with p := w } :=
  { h with flags := fun _ _ => congrArg (readFlag · _) hv }
theorem armCycles {n m : Nat} (hn : n = m) : Agree F (s.armCycles n) (t.armCycles m) := { h with cycles := hn }
theorem countDown : Agree F s.countDown t.countDown := { h with cycles := congrArg (· - 1) h.cycles }

theorem push {v w : Byte} (hv : v = w) : Agree F (s.push v) (t.push w) :=
  { h with
    mem := show s.mem.write _ _ = t.mem.write _ _ by rw [h.mem, h.sp, hv]
    sp := congrArg (· - 1) h.sp }

theorem pushWord {v w : Addr} (hv : v = w) : Agree F (s.pushWord v) (t.pushWord w) :=
  (h.push (by rw [hv])).push (by rw [hv])

theorem pull : Agree F s.pull.2 t.pull.2 := { h with sp := congrArg (· + 1) h.sp }

theorem pull_fst_eq : s.pull.1 = t.pull.1 := by rw [pull_fst, pull_fst, h.mem, h.sp]

theorem pullWord : Agree F s.pullWord.2 t.pullWord.2 := h.pull.pull

theorem pullWord_fst_eq : s.pullWord.1 = t.pullWord.1 := congrArg₂ word h.pull.pull_fst_eq h.pull_fst_eq

/-- A write-back goes to the accumulator, or to one address. -/
theorem writeBack {v w : Byte} (hv : v = w) (ht : s.accMode = true ∨ s.addrAbs = t.addrAbs) :
    Agree F (s.writeBack v) (t.writeBack w) := by
  unfold State.writeBack
  by_cases hacc : s.accMode = true
  · rw [if_pos hacc, if_pos (h.accMode ▸ hacc)]
    exact h.withA hv
  · rw [if_neg hacc, if_neg (h.accMode ▸ hacc)]
    exact { h with mem := show s.mem.write _ _ = t.mem.write _ _ by rw [h.mem, hv, ht.resolve_left hacc] }

theorem storeByte {v w : Byte} (hv : v = w) (ht : s.addrAbs = t.addrAbs) :
    Agree F (s.storeByte v) (t.storeByte w) :=
  { h with mem := show s.mem.write _ _ = t.mem.write _ _ by rw [h.mem, hv, ht] }

/-- A resolver reads no flag and nothing of the transient state. -/
theorem resolve (f : Form) : Agree F (resolve f s) (resolve f t) :=
  { h with
    pc := by rw [resolve_pc, resolve_pc, h.pc]
    accMode := by rw [resolve_accMode, resolve_accMode, h.accMode] }

theorem effectiveAddress_eq {f : Form} (hi : f.mode ≠ .imp) (hr : f.mode ≠ .rel) :
    effectiveAddress f s = effectiveAddress f t := by
  cases f
  case imp => exact absurd rfl hi
  case rel => exact absurd rfl hr
  all_goals simp only [effectiveAddress, h.x, h.y, h.pc, h.mem]

theorem cycleTotal_eq (i : Instr) (n : Nat) : cycleTotal i n s = cycleTotal i n t := by
  have hx : modeExtra i.form s = modeExtra i.form t := by
    cases i.form <;> simp only [modeExtra, effectiveAddress, h.x, h.y, h.mem]
  rw [cycleTotal, cycleTotal, hx]

/-- Every form but REL is on the accumulator or at one address. -/
theorem target {f : Form} (hr : f.mode ≠ .rel) :
    (Machine.resolve f s).accMode = true ∨ effectiveAddress f s = effectiveAddress f t := by
  by_cases hi : f.mode = .imp
  · exact .inl (by simp [hi])
  · exact .inr (h.effectiveAddress_eq hi hr)

theorem operandOf_eq {f : Form} (hr : f.mode ≠ .rel) : operandOf f s = operandOf f t := by
  have reads : (if (Machine.resolve f s).accMode then s.a else s.mem.read (effectiveAddress f s)) =
      if (Machine.resolve f t).accMode then t.a else t.mem.read (effectiveAddress f t) := by
    rw [← (h.resolve f).accMode, h.a, h.mem]
    obtain hacc | haddr := h.target hr
    · rw [if_pos hacc, if_pos hacc]
    · rw [haddr]
  cases f
  case imm => rfl
  all_goals exact reads

/-! The Break flag reaches the stack only as the 1 that PHP and BRK push there. -/

/-- Status bytes that differ in B at most are the same once B is forced. -/
theorem p_eq_of_break (hF : ∀ g ∈ F, g = .b) : s.p ||| Flag.b.mask = t.p ||| Flag.b.mask := by
  apply status_ext
  intro g
  rw [readFlag_or, readFlag_or, readFlag_mask]
  by_cases hg : g = .b
  · simp [hg]
  · rw [readFlag_p, readFlag_p, h.flags g fun hm => hg (hF g hm)]

theorem takeTrap (hF : ∀ g ∈ F, g = .b) : Agree F s.takeTrap t.takeTrap := by
  have next : s.pc + 1 = t.pc + 1 := by rw [h.pc]
  have pushed := ((h.withPc next).setFlag .i (Eq.refl true)).pushWord next
  have status := (pushed.setFlag .b (Eq.refl true)).push (pushed.p_eq_of_break hF)
  exact (status.setFlag .b (Eq.refl false)).withPc
    (congrArg (Memory.readWord · Config.brkVector (Config.brkVector + 1)) status.mem)

theorem afterSum (i : Instr) {m n : Byte} (hm : m = n) (hc : s.flag .c = t.flag .c) :
    Agree F (afterSum i m s) (afterSum i n t) := by
  have sum : addWithCarry s.a m (s.flag .c) = addWithCarry t.a n (t.flag .c) := by rw [h.a, hm, hc]
  exact (((h.resolve i.form).withA (congrArg Sum.value sum)).setSumFlags sum).armCycles (h.cycleTotal_eq i 0)

theorem afterShift (i : Instr) (hr : i.form.mode ≠ .rel) {r q : Shifted} (hv : r = q) :
    Agree F (afterShift i r s) (afterShift i q t) :=
  (((h.resolve i.form).setShiftFlags hv).writeBack (congrArg Shifted.value hv) (h.target hr)).armCycles
    (h.cycleTotal_eq i 0)

theorem returnFromTrap : Agree F s.returnFromTrap t.returnFromTrap := by
  have status := ((h.pull.withP h.pull_fst_eq).setFlag .b (Eq.refl false)).setFlag .u (Eq.refl false)
  exact status.pullWord.withPc status.pullWord_fst_eq

end

end Agree

/-! ## Every instruction -/

/-- A documented form has a mode its mnemonic has a row for. -/
theorem mode_ne_of_formAllowed {m : Mnemonic} {f : Form} {k : Mode} (h : formAllowed m f = true)
    (hk : ∀ r ∈ documentedRows m, r.1 ≠ k := by decide) : f.mode ≠ k := by
  simp only [formAllowed, List.any_eq_true, beq_iff_eq] at h
  obtain ⟨r, hr, hm⟩ := h
  exact hm ▸ hk r hr

/-- Two instructions answer agreeing next states. -/
def AgreeNext (F : List Flag) (r q : Result) : Prop := ∃ u v, r = .next u ∧ q = .next v ∧ Agree F u v

/-- A branch on a flag both states have. -/
theorem agree_performBranch {F : List Flag} {s t : State} (h : Agree F s t) (i : Instr) {g : Flag} (hg : g ∉ F) (v : Bool)
    (hi : ∃ o, i.form = .rel o) :
    AgreeNext F (performBranch i g v s) (performBranch i g v t) := by
  have hr := h.resolve i.form
  have flag : (resolve i.form s).flag g = (resolve i.form t).flag g := hr.flags g hg
  have offset : (resolve i.form s).addrRel = (resolve i.form t).addrRel := by
    obtain ⟨o, ho⟩ := hi
    rw [ho]; rfl
  refine ⟨_, _, rfl, rfl, (hr.withPc ?_).armCycles ?_⟩
  · rw [branchTarget, branchTarget, flag, hr.pc, offset]
  · rw [h.cycleTotal_eq, branchPenalty, branchPenalty, flag, hr.pc, offset]

/-- Two instructions whose semantics leave agreeing states, before the counter is armed. -/
theorem agree_armed {F : List Flag} {s t u w : State} (h : Agree F s t) {i : Instr} (hu : Agree F u w) :
    AgreeNext F (.next (u.armCycles (cycleTotal i 0 s))) (.next (w.armCycles (cycleTotal i 0 t))) :=
  ⟨_, _, rfl, rfl, hu.armCycles (h.cycleTotal_eq i 0)⟩

/-- Agreeing states in which an instruction of the opcode table is executed lead to agreeing states. -/
theorem agree_exec {F : List Flag} {s t : State} (h : Agree F s t) (hF : ∀ g ∈ F, g = .b) {i : Instr}
    (hw : i.wellFormed = true) : AgreeNext F (exec i s) (exec i t) := by
  have tested {g : Flag} (hg : g ≠ .b) : g ∉ F := fun hm => hg (hF g hm)
  have carry : s.flag .c = t.flag .c := h.flags .c (tested (by decide))
  have implied := h.resolve .imp
  cases i
  case bcc o => exact agree_performBranch h _ (tested (by decide)) _ ⟨o, rfl⟩
  case bcs o => exact agree_performBranch h _ (tested (by decide)) _ ⟨o, rfl⟩
  case beq o => exact agree_performBranch h _ (tested (by decide)) _ ⟨o, rfl⟩
  case bne o => exact agree_performBranch h _ (tested (by decide)) _ ⟨o, rfl⟩
  case bmi o => exact agree_performBranch h _ (tested (by decide)) _ ⟨o, rfl⟩
  case bpl o => exact agree_performBranch h _ (tested (by decide)) _ ⟨o, rfl⟩
  case bvc o => exact agree_performBranch h _ (tested (by decide)) _ ⟨o, rfl⟩
  case bvs o => exact agree_performBranch h _ (tested (by decide)) _ ⟨o, rfl⟩
  case adc f =>
    have m := h.operandOf_eq (mode_ne_of_formAllowed (m := .adc) hw)
    exact ⟨_, _, exec_adc f s, exec_adc f t, h.afterSum (.adc f) m carry⟩
  case sbc f =>
    have m := h.operandOf_eq (mode_ne_of_formAllowed (m := .sbc) hw)
    exact ⟨_, _, exec_sbc f s, exec_sbc f t, h.afterSum (.sbc f) (congrArg (· ^^^ 0xFF#8) m) carry⟩
  case asl f =>
    have hf : f.mode ≠ .rel := mode_ne_of_formAllowed (m := .asl) hw
    exact ⟨_, _, exec_asl f s, exec_asl f t, h.afterShift (.asl f) hf (by rw [h.operandOf_eq hf])⟩
  case lsr f =>
    have hf : f.mode ≠ .rel := mode_ne_of_formAllowed (m := .lsr) hw
    exact ⟨_, _, exec_lsr f s, exec_lsr f t, h.afterShift (.lsr f) hf (by rw [h.operandOf_eq hf])⟩
  case rol f =>
    have hf : f.mode ≠ .rel := mode_ne_of_formAllowed (m := .rol) hw
    exact ⟨_, _, exec_rol f s, exec_rol f t, h.afterShift (.rol f) hf (by rw [h.operandOf_eq hf, carry])⟩
  case ror f =>
    have hf : f.mode ≠ .rel := mode_ne_of_formAllowed (m := .ror) hw
    exact ⟨_, _, exec_ror f s, exec_ror f t, h.afterShift (.ror f) hf (by rw [h.operandOf_eq hf, carry])⟩
  case cmp f =>
    have m := h.operandOf_eq (mode_ne_of_formAllowed (m := .cmp) hw)
    exact agree_armed h ((h.resolve f).setCompareFlags h.a m)
  case cpx f =>
    have m := h.operandOf_eq (mode_ne_of_formAllowed (m := .cpx) hw)
    exact agree_armed h ((h.resolve f).setCompareFlags h.x m)
  case cpy f =>
    have m := h.operandOf_eq (mode_ne_of_formAllowed (m := .cpy) hw)
    exact agree_armed h ((h.resolve f).setCompareFlags h.y m)
  case bit f =>
    have m := h.operandOf_eq (mode_ne_of_formAllowed (m := .bit) hw)
    exact agree_armed h ((h.resolve f).setBitFlags h.a m)
  case lda f =>
    have m := h.operandOf_eq (mode_ne_of_formAllowed (m := .lda) hw)
    exact agree_armed h (((h.resolve f).withA m).setZN m)
  case ldx f =>
    have m := h.operandOf_eq (mode_ne_of_formAllowed (m := .ldx) hw)
    exact agree_armed h (((h.resolve f).withX m).setZN m)
  case ldy f =>
    have m := h.operandOf_eq (mode_ne_of_formAllowed (m := .ldy) hw)
    exact agree_armed h (((h.resolve f).withY m).setZN m)
  case and f =>
    have m := congrArg₂ (· &&& ·) h.a (h.operandOf_eq (mode_ne_of_formAllowed (m := .and) hw))
    exact agree_armed h (((h.resolve f).withA m).setZN m)
  case ora f =>
    have m := congrArg₂ (· ||| ·) h.a (h.operandOf_eq (mode_ne_of_formAllowed (m := .ora) hw))
    exact agree_armed h (((h.resolve f).withA m).setZN m)
  case eor f =>
    have m := congrArg₂ (· ^^^ ·) h.a (h.operandOf_eq (mode_ne_of_formAllowed (m := .eor) hw))
    exact agree_armed h (((h.resolve f).withA m).setZN m)
  case inc f =>
    have hr : f.mode ≠ .rel := mode_ne_of_formAllowed (m := .inc) hw
    have m := congrArg (· + 1) (h.operandOf_eq hr)
    have addr := h.effectiveAddress_eq (mode_ne_of_formAllowed (m := .inc) hw) hr
    exact agree_armed h (((h.resolve f).storeByte m addr).setZN m)
  case dec f =>
    have hr : f.mode ≠ .rel := mode_ne_of_formAllowed (m := .dec) hw
    have m := congrArg (· - 1) (h.operandOf_eq hr)
    have addr := h.effectiveAddress_eq (mode_ne_of_formAllowed (m := .dec) hw) hr
    exact agree_armed h (((h.resolve f).storeByte m addr).setZN m)
  case sta f =>
    have addr := h.effectiveAddress_eq (mode_ne_of_formAllowed (m := .sta) hw) (mode_ne_of_formAllowed (m := .sta) hw)
    exact agree_armed h ((h.resolve f).storeByte h.a addr)
  case stx f =>
    have addr := h.effectiveAddress_eq (mode_ne_of_formAllowed (m := .stx) hw) (mode_ne_of_formAllowed (m := .stx) hw)
    exact agree_armed h ((h.resolve f).storeByte h.x addr)
  case sty f =>
    have addr := h.effectiveAddress_eq (mode_ne_of_formAllowed (m := .sty) hw) (mode_ne_of_formAllowed (m := .sty) hw)
    exact agree_armed h ((h.resolve f).storeByte h.y addr)
  case jmp f =>
    have addr := h.effectiveAddress_eq (mode_ne_of_formAllowed (m := .jmp) hw) (mode_ne_of_formAllowed (m := .jmp) hw)
    exact agree_armed h ((h.resolve f).withPc addr)
  case tax => exact agree_armed h ((implied.withX h.a).setZN h.a)
  case tay => exact agree_armed h ((implied.withY h.a).setZN h.a)
  case txa => exact agree_armed h ((implied.withA h.x).setZN h.x)
  case tya => exact agree_armed h ((implied.withA h.y).setZN h.y)
  case tsx => exact agree_armed h ((implied.withX h.sp).setZN h.sp)
  case txs => exact agree_armed h (implied.withSp h.x)
  case inx =>
    have next := congrArg (· + 1) h.x
    exact agree_armed h ((implied.withX next).setZN next)
  case iny =>
    have next := congrArg (· + 1) h.y
    exact agree_armed h ((implied.withY next).setZN next)
  case dex =>
    have next := congrArg (· - 1) h.x
    exact agree_armed h ((implied.withX next).setZN next)
  case dey =>
    have next := congrArg (· - 1) h.y
    exact agree_armed h ((implied.withY next).setZN next)
  case clc | sec | cli | sei | cld | sed | clv =>
    exact agree_armed h (implied.setFlag _ rfl)
  case nop | xxx => exact agree_armed h implied
  case nopAlias op f => exact agree_armed h (h.resolve f)
  case pha => exact agree_armed h (implied.push h.a)
  case pla =>
    exact agree_armed h ((implied.pull.withA implied.pull_fst_eq).setZN implied.pull_fst_eq)
  case php =>
    have pushed := implied.push (congrArg (· ||| Flag.u.mask) (h.p_eq_of_break hF))
    exact agree_armed h ((pushed.setFlag .b rfl).setFlag .u rfl)
  case plp => exact agree_armed h ((implied.pull.withP implied.pull_fst_eq).setFlag .u rfl)
  case jsr a =>
    have resolved := h.resolve (.abs a)
    exact agree_armed h ((resolved.pushWord (congrArg (· - 1) resolved.pc)).withPc rfl)
  case rts =>
    exact agree_armed h (implied.pullWord.withPc (congrArg (· + 1) implied.pullWord_fst_eq))
  case brk => exact agree_armed h (implied.takeTrap hF)
  case rti => exact agree_armed h implied.returnFromTrap

end Sys2Proof

/-! The two noninterference statements, from `agree_exec`. -/

namespace Sys2Proof

open Machine

/-- The opcode fetch of states that agree but for `acc_mode`, which it clears. -/
theorem agree_beginInstr {F : List Flag} {s t : State} (h : Agree F { s with accMode := t.accMode } t) :
    Agree F s.beginInstr t.beginInstr :=
  { (h.setFlag .u (Eq.refl true)).withPc (congrArg (· + 1) h.pc) with accMode := rfl }

/-- Agreeing states fetch the same instruction. -/
theorem fetchInstr_congr {s t : State} (hpc : s.pc = t.pc) (hmem : s.mem = t.mem) : s.fetchInstr = t.fetchInstr := by
  rw [fetchInstr_eq, fetchInstr_eq, hpc, hmem]

/-- One clock step of states that agree but for `acc_mode` in Idle. -/
theorem agree_working {F : List Flag} {s t : State} (hF : ∀ g ∈ F, g = .b) (h : Agree F { s with accMode := t.accMode } t)
    (idle : s.cycles = 0) : AgreeNext F (step s) (step t) := by
  obtain ⟨u, v, hu, hv, huv⟩ := agree_exec (agree_beginInstr h) hF (wellFormed_fetchInstr s)
  have fetched : s.fetchInstr = t.fetchInstr := fetchInstr_congr h.pc h.mem
  exact ⟨_, _, step_working idle hu, step_working (h.cycles ▸ idle) (fetched ▸ hv),
    (huv.setFlag .u (Eq.refl true)).countDown⟩

/-! ## The stored Break flag -/

theorem sameButBreak_iff (s t : State) : SameButBreak s t ↔
    Agree [.b] s t ∧ s.addrAbs = t.addrAbs ∧ s.addrRel = t.addrRel ∧ s.opcode = t.opcode := by
  rw [SameButBreak, State.mk.injEq]
  constructor
  · rintro ⟨ha, hx, hy, hsp, hpc, hp, habs, hrel, hop, hacc, hc, hm⟩
    refine ⟨⟨ha, hx, hy, hsp, hpc, fun g hg => ?_, hacc, hc, hm⟩, habs, hrel, hop⟩
    have hb : g ≠ .b := by simpa using hg
    rw [State.flag, ← readFlag_writeFlag_other s.p false hb, hp, readFlag_writeFlag_other t.p false hb]; rfl
  · rintro ⟨h, habs, hrel, hop⟩
    refine ⟨h.a, h.x, h.y, h.sp, h.pc, status_ext fun g => ?_, habs, hrel, hop, h.accMode, h.cycles, h.mem⟩
    by_cases hb : g = .b
    · simp [hb]
    · rw [readFlag_writeFlag_other _ _ hb, readFlag_writeFlag_other _ _ hb]
      exact h.flags g (by simpa using hb)

/-- What a working step leaves in the transient registers is the work of the resolver and of the opcode fetch. -/
theorem step_transients {s t : State} (idle : s.cycles = 0) (h : step s = .next t) :
    t.addrAbs = effectiveAddress s.fetchInstr.form s.beginInstr ∧
    t.addrRel = relativeOffset s.fetchInstr.form s.beginInstr ∧ t.opcode = s.mem.read s.pc := by
  obtain ⟨b, n, he, ⟨hop, habs, hrel, -, -⟩, -⟩ := exec_cases s.fetchInstr s.beginInstr
  rw [step_working idle he] at h
  injection h with ht
  subst ht
  exact ⟨habs, hrel, hop⟩

/-- Settles O21: the two working steps agree by `agree_working`, and their transient registers are the resolver's, which reads
no flag. -/
theorem storedBreakInfluencesNothing : Obligations.StoredBreakInfluencesNothing := by
  intro s u hsu
  obtain ⟨h, habs, hrel, hop⟩ := (sameButBreak_iff s u).mp hsu
  have fetch : Agree [.b] { s with accMode := u.accMode } u := { h with accMode := rfl }
  obtain idle | counting := Nat.eq_zero_or_pos s.cycles
  · obtain ⟨t, v, ht, hv, htv⟩ := agree_working (fun g hg => List.mem_singleton.mp hg) fetch idle
    obtain ⟨tabs, trel, top⟩ := step_transients idle ht
    obtain ⟨vabs, vrel, vop⟩ := step_transients (h.cycles ▸ idle) hv
    rw [← fetchInstr_congr h.pc h.mem] at vabs vrel
    refine ⟨t, v, ht, hv, (sameButBreak_iff t v).mpr ⟨htv, ?_, ?_, ?_⟩⟩
    · rw [tabs, vabs]
      cases hf : s.fetchInstr.form
      case imp | rel => exact habs
      all_goals exact (agree_beginInstr fetch).effectiveAddress_eq (by simp [Form.mode]) (by simp [Form.mode])
    · rw [trel, vrel]
      cases s.fetchInstr.form
      case rel => rfl
      all_goals exact hrel
    · rw [top, vop, h.pc, h.mem]
  · refine ⟨_, _, step_counting counting, step_counting (h.cycles ▸ counting), (sameButBreak_iff _ _).mpr ?_⟩
    exact ⟨h.countDown, habs, hrel, hop⟩

/-! ## The transient decode state -/

theorem sameButTransient_iff (s t : State) : SameButTransient s t ↔ Agree [] { s with accMode := t.accMode } t := by
  rw [SameButTransient]
  constructor
  · intro h
    rw [← h]
    exact ⟨rfl, rfl, rfl, rfl, rfl, fun _ _ => rfl, rfl, rfl, rfl⟩
  · intro h
    have hp : s.p = t.p := status_ext fun g => h.flags g List.not_mem_nil
    exact State.mk.injEq .. ▸ ⟨h.a, h.x, h.y, h.sp, h.pc, hp, rfl, rfl, rfl, rfl, h.cycles, h.mem⟩

/-- Settles O22: the opcode fetch clears `acc_mode`, and no instruction of the table reads a transient register its resolver
does not write (`agree_exec`). -/
theorem transientStateInfluencesNothing : Obligations.TransientStateInfluencesNothing := by
  intro s u hsu
  have h := (sameButTransient_iff s u).mp hsu
  obtain idle | counting := Nat.eq_zero_or_pos s.cycles
  · obtain ⟨t, v, ht, hv, htv⟩ := agree_working (by simp) h idle
    exact ⟨t, v, ht, hv, (sameButTransient_iff t v).mpr { htv with accMode := rfl }⟩
  · refine ⟨_, _, step_counting counting, step_counting (h.cycles ▸ counting), (sameButTransient_iff _ _).mpr ?_⟩
    exact h.countDown

end Sys2Proof
